-- ==== Sys2Proof/Word.lean ====
section
/-! DEFINITION. The word types of the VBD: a byte (R9: "every stream element and every buffer cell is one byte") and a
32-bit register word (R28). Cursors, lengths, counts and indices are natural numbers (R10, D27). -/

namespace Sys2Proof

/-- A `u8` of R10: one stream byte, one cell of a buffer or array. -/
abbrev Byte := BitVec 8

/-- One 32-bit register (R28). -/
abbrev Word := BitVec 32

end Sys2Proof
end

