-- ==== Sys2Proof/Config.lean ====
section
/-! DEFINITION. What an implementation fixes (the parameters of R8), the constants of the format (R6), and the free
values: constants with no body, so that nothing proved here can depend on what they are. -/

namespace Sys2Proof

/-- `CODE_ORDER` (R8, D8): the order of the 2-bit or 4-bit codes inside one packed byte. -/
inductive CodeOrder where
  /-- the code of lowest index sits in the highest bits -/
  | msbFirst
  /-- the code of lowest index sits in the lowest bits -/
  | lsbFirst
  deriving DecidableEq, Repr, Inhabited

/-- The parameters of R8 that a rule depends on. `T_BUSY` is none of them: no rule depends on it (R236).
A capacity `none` is "no bound", which U5 allows a model to choose. -/
structure Config where
  codeOrder : CodeOrder
  inCap     : Option Nat
  outCap    : Option Nat
  deriving DecidableEq, Repr

/-- The range R8 gives the parameters: `1 <= IN_CAP <= 2^32 - 8`, `OUT_CAP >= 1`. -/
def Config.wf (c : Config) : Bool :=
  (match c.inCap with | none => true | some m => decide (1 ≤ m ∧ m ≤ 2 ^ 32 - 8)) &&
  (match c.outCap with | none => true | some m => decide (1 ≤ m))

/-- DESIGN CHOICE (log 3), safe: the order of codes of the machine that `State.reset` describes. No body: the source
does not say which it is (R88, N1). -/
opaque Config.codeOrderOfMachine : CodeOrder

/-- The parameters of the machine that `State.reset` describes. The capacities are "no bound" (log 4, U5). -/
def Config.machine : Config :=
  { codeOrder := Config.codeOrderOfMachine, inCap := none, outCap := none }

/-- The five byte arrays of the VBD (R20). -/
inductive Bank where
  | lastv | col | blk | input | output
  deriving DecidableEq, Repr

/-- Free value (log 5): what the cell `index` of an array holds when nothing has written it since the reset or error
numbered `epoch` (R39 "unspecified", U7, U9, U10). -/
opaque Config.unspecified : (bank : Bank) → (epoch index : Nat) → Byte

/-- Free value (log 7): the `count`-th byte a host read of OUT returns while BUSY or in ERROR (U4). -/
opaque Config.anyByte : (count : Nat) → Byte

/-- Free value (log 7): the `count`-th word a host read of CUR returns while BUSY (U3). -/
opaque Config.anyWord : (count : Nat) → Word

/-- `TAG` of R6 and R7. -/
@[simp] abbrev Config.tag : Byte := 0xA0#8

/-- `GROUP` of R6: residuals per byte group. -/
@[simp] abbrev Config.group : Nat := 16

/-- `SEL_PER_HDR` of R6: width selectors per header byte. -/
@[simp] abbrev Config.selPerHdr : Nat := 4

/-- `BLOCK_MAX` of R6: most vertices in one block. -/
@[simp] abbrev Config.blockMax : Nat := 256

/-- `BLOCK_BYTES` of R6: byte budget of one block. -/
@[simp] abbrev Config.blockBytes : Nat := 8192

/-- `TAIL_MARGIN` of R6: fewest bytes that must remain when a group is decoded. -/
@[simp] abbrev Config.tailMargin : Nat := 32

/-- `VSIZE_MAX` of R6. -/
@[simp] abbrev Config.vsizeMax : Nat := 256

end Sys2Proof
end

