-- ==== Sys2Proof/Syntax.lean ====
section
/-! DEFINITION. The elements of the encoded stream and the host commands (R97): one constructor per row of
spec/opcode_table.json, and the positions (slots) at which elements are recognised. -/

namespace Sys2Proof

/-- The 37 elements of R97. Bits that the VBD ignores (bits 31:2 of a CTRL write, R29) are operands too, so that a term
says every bit of its encoding. -/
inductive Instr where
  /-- `TAG`: the format tag 0xA0 (R7, R167) -/
  | tag
  /-- `HDR`: a header byte, the selectors of groups 4m, 4m+1, 4m+2, 4m+3 (R84, R132) -/
  | hdr (a b c d : BitVec 2)
  /-- `GRP.Z`: selector 0 (R111) -/
  | grpZ
  /-- `GRP.B2`: selector 1 (R112) -/
  | grpB2
  /-- `GRP.B4`: selector 2 (R113) -/
  | grpB4
  /-- `GRP.B8`: selector 3 (R114) -/
  | grpB8
  /-- `PACK2`: a packed byte of four 2-bit codes, `a` in bits 7:6 (R88, R112) -/
  | pack2 (a b c d : BitVec 2)
  /-- `PACK4`: a packed byte of two 4-bit codes, `a` in bits 7:4 (R89, R113) -/
  | pack4 (a b : BitVec 4)
  /-- `C2.LIT0`: the 2-bit code 0, a literal (R115) -/
  | c2Lit0
  /-- `C2.LIT1`: the 2-bit code 1, a literal (R115) -/
  | c2Lit1
  /-- `C2.LIT2`: the 2-bit code 2, a literal (R115) -/
  | c2Lit2
  /-- `C2.ESC`: the 2-bit code 3, the escape (R115) -/
  | c2Esc
  /-- `C4.LIT0`: the 4-bit code 0, a literal (R115) -/
  | c4Lit0
  /-- `C4.LIT1`: the 4-bit code 1, a literal (R115) -/
  | c4Lit1
  /-- `C4.LIT2`: the 4-bit code 2, a literal (R115) -/
  | c4Lit2
  /-- `C4.LIT3`: the 4-bit code 3, a literal (R115) -/
  | c4Lit3
  /-- `C4.LIT4`: the 4-bit code 4, a literal (R115) -/
  | c4Lit4
  /-- `C4.LIT5`: the 4-bit code 5, a literal (R115) -/
  | c4Lit5
  /-- `C4.LIT6`: the 4-bit code 6, a literal (R115) -/
  | c4Lit6
  /-- `C4.LIT7`: the 4-bit code 7, a literal (R115) -/
  | c4Lit7
  /-- `C4.LIT8`: the 4-bit code 8, a literal (R115) -/
  | c4Lit8
  /-- `C4.LIT9`: the 4-bit code 9, a literal (R115) -/
  | c4Lit9
  /-- `C4.LIT10`: the 4-bit code 10, a literal (R115) -/
  | c4Lit10
  /-- `C4.LIT11`: the 4-bit code 11, a literal (R115) -/
  | c4Lit11
  /-- `C4.LIT12`: the 4-bit code 12, a literal (R115) -/
  | c4Lit12
  /-- `C4.LIT13`: the 4-bit code 13, a literal (R115) -/
  | c4Lit13
  /-- `C4.LIT14`: the 4-bit code 14, a literal (R115) -/
  | c4Lit14
  /-- `C4.ESC`: the 4-bit code 15, the escape (R115) -/
  | c4Esc
  /-- `OVF`: an overflow byte (R90, R116) -/
  | ovf (v : Byte)
  /-- `RAW`: a byte of a `GRP.B8` group (R87, R114) -/
  | raw (v : Byte)
  /-- `SNAP`: a byte of the trailing snapshot (R91, R168) -/
  | snap (v : Byte)
  /-- `ZZ.POS`: an even residual `2m`, delta `+m` (R94, R146) -/
  | zzPos (m : BitVec 7)
  /-- `ZZ.NEG`: an odd residual `2m + 1`, delta `-(m + 1)` (R94, R146) -/
  | zzNeg (m : BitVec 7)
  /-- `CMD.NONE`: CTRL bits 1:0 = 00; `r` is bits 31:2 (R29, R182) -/
  | cmdNone (r : BitVec 30)
  /-- `CMD.START`: CTRL bits 1:0 = 01 (R29, R179) -/
  | cmdStart (r : BitVec 30)
  /-- `CMD.CLEAR`: CTRL bits 1:0 = 10 (R29, R181) -/
  | cmdClear (r : BitVec 30)
  /-- `CMD.RSVD`: CTRL bits 1:0 = 11, reserved (R29, R182) -/
  | cmdRsvd (r : BitVec 30)
  deriving DecidableEq, Repr

/-- The positions of R97: "An element is recognised by its position ... and, within a position, by its bits". The names
are the formats of the opcode table, `F-BYTE` split by its three positions. -/
inductive Slot where
  | tag | header | selector | pack2 | pack4 | code2 | code4 | overflow | raw | snapshot | residual | ctrl
  deriving DecidableEq, Repr

/-- Bits of an element at a position (the width column of R97). -/
def Slot.width : Slot → Nat
  | .selector | .code2 => 2
  | .code4 => 4
  | .ctrl => 32
  | .tag | .header | .pack2 | .pack4 | .overflow | .raw | .snapshot | .residual => 8

/-- The position at which an element stands (R97, the position column of the opcode table). -/
def Instr.slot : Instr → Slot
  | .tag => .tag
  | .hdr _ _ _ _ => .header
  | .grpZ | .grpB2 | .grpB4 | .grpB8 => .selector
  | .pack2 _ _ _ _ => .pack2
  | .pack4 _ _ => .pack4
  | .c2Lit0 | .c2Lit1 | .c2Lit2 | .c2Esc => .code2
  | .c4Lit0 | .c4Lit1 | .c4Lit2 | .c4Lit3 | .c4Lit4 | .c4Lit5 | .c4Lit6 | .c4Lit7
  | .c4Lit8 | .c4Lit9 | .c4Lit10 | .c4Lit11 | .c4Lit12 | .c4Lit13 | .c4Lit14 | .c4Esc => .code4
  | .ovf _ => .overflow
  | .raw _ => .raw
  | .snap _ => .snapshot
  | .zzPos _ | .zzNeg _ => .residual
  | .cmdNone _ | .cmdStart _ | .cmdClear _ | .cmdRsvd _ => .ctrl

end Sys2Proof
end

