-- ==== Sys2Proof/WellFormed.lean ====
section
/-! DEFINITION. Well-formed elements. The operands of an element carry their exact widths in their types, so the one
thing that can be wrong with an element is the place where it stands (R97: an element is recognised by its position). -/

namespace Sys2Proof

/-- The element may stand at this position of the stream, or be the command of a CTRL write (R97). -/
def Instr.wellFormedAt (i : Instr) (p : Slot) : Bool := decide (i.slot = p)

end Sys2Proof
end

