-- ==== Sys2Proof/Decode.lean ====
section
/-! DEFINITION. Decoding and encoding the elements (R97, `opcode_table.json`). Bits are carried right-aligned in a 32-bit
word; an element of a narrower slot is the word's low bits. The only illegal encoding is a tag byte other than 0xA0 (R98);
every other pattern of every slot is defined (R99). -/

namespace Sys2Proof

/-- Why a decode is refused. `badTag`: the byte at the tag position is not 0xA0 (R98); the engine then takes the exception
`CorruptStream(BAD_TAG)` (R167). -/
inductive Reject where
  | badTag
  deriving DecidableEq, Repr

/-- The four selectors (R85, format `F-SEL`). -/
def decodeSelector (v : BitVec 2) : Instr :=
  match v.toNat with
  | 0 => .grpZ
  | 1 => .grpB2
  | 2 => .grpB4
  | _ => .grpB8

/-- The four 2-bit codes (R115, format `F-CODE2`). -/
def decodeCode2 (v : BitVec 2) : Instr :=
  match v.toNat with
  | 0 => .c2Lit0
  | 1 => .c2Lit1
  | 2 => .c2Lit2
  | _ => .c2Esc

/-- The sixteen 4-bit codes (R115, format `F-CODE4`). -/
def decodeCode4 (v : BitVec 4) : Instr :=
  match v.toNat with
  | 0 => .c4Lit0
  | 1 => .c4Lit1
  | 2 => .c4Lit2
  | 3 => .c4Lit3
  | 4 => .c4Lit4
  | 5 => .c4Lit5
  | 6 => .c4Lit6
  | 7 => .c4Lit7
  | 8 => .c4Lit8
  | 9 => .c4Lit9
  | 10 => .c4Lit10
  | 11 => .c4Lit11
  | 12 => .c4Lit12
  | 13 => .c4Lit13
  | 14 => .c4Lit14
  | _ => .c4Esc

/-- A residual by its bit 0 (R94, format `F-RESID`). -/
def decodeResidual (v : Byte) : Instr :=
  if v.extractLsb' 0 1 = 0#1 then .zzPos (v.extractLsb' 1 7) else .zzNeg (v.extractLsb' 1 7)

/-- A value written to CTRL by its bits 1:0 (R29, format `F-CTRL`). -/
def decodeCtrl (w : Word) : Instr :=
  match (w.extractLsb' 0 2).toNat with
  | 0 => .cmdNone (w.extractLsb' 2 30)
  | 1 => .cmdStart (w.extractLsb' 2 30)
  | 2 => .cmdClear (w.extractLsb' 2 30)
  | _ => .cmdRsvd (w.extractLsb' 2 30)

/-- The element that bits `w` are at position `p` (R97). Total: it refuses a wrong tag, by name, and nothing else. -/
def decode (p : Slot) (w : Word) : Except Reject Instr :=
  match p with
  | .tag => if w.setWidth 8 = Config.tag then .ok .tag else .error .badTag
  | .header =>
    .ok (.hdr (w.extractLsb' 0 2) (w.extractLsb' 2 2) (w.extractLsb' 4 2) (w.extractLsb' 6 2))
  | .selector => .ok (decodeSelector (w.setWidth 2))
  | .pack2 =>
    .ok (.pack2 (w.extractLsb' 6 2) (w.extractLsb' 4 2) (w.extractLsb' 2 2) (w.extractLsb' 0 2))
  | .pack4 => .ok (.pack4 (w.extractLsb' 4 4) (w.extractLsb' 0 4))
  | .code2 => .ok (decodeCode2 (w.setWidth 2))
  | .code4 => .ok (decodeCode4 (w.setWidth 4))
  | .overflow => .ok (.ovf (w.setWidth 8))
  | .raw => .ok (.raw (w.setWidth 8))
  | .snapshot => .ok (.snap (w.setWidth 8))
  | .residual => .ok (decodeResidual (w.setWidth 8))
  | .ctrl => .ok (decodeCtrl w)

/-- The bits of an element, right-aligned (the pattern column of R97). -/
def encode : Instr → Word
  | .tag => 0xA0#32
  | .hdr a b c d => (d ++ c ++ b ++ a).setWidth 32
  | .grpZ => 0b00#32
  | .grpB2 => 0b01#32
  | .grpB4 => 0b10#32
  | .grpB8 => 0b11#32
  | .pack2 a b c d => (a ++ b ++ c ++ d).setWidth 32
  | .pack4 a b => (a ++ b).setWidth 32
  | .c2Lit0 => 0b00#32
  | .c2Lit1 => 0b01#32
  | .c2Lit2 => 0b10#32
  | .c2Esc => 0b11#32
  | .c4Lit0 => 0b0000#32
  | .c4Lit1 => 0b0001#32
  | .c4Lit2 => 0b0010#32
  | .c4Lit3 => 0b0011#32
  | .c4Lit4 => 0b0100#32
  | .c4Lit5 => 0b0101#32
  | .c4Lit6 => 0b0110#32
  | .c4Lit7 => 0b0111#32
  | .c4Lit8 => 0b1000#32
  | .c4Lit9 => 0b1001#32
  | .c4Lit10 => 0b1010#32
  | .c4Lit11 => 0b1011#32
  | .c4Lit12 => 0b1100#32
  | .c4Lit13 => 0b1101#32
  | .c4Lit14 => 0b1110#32
  | .c4Esc => 0b1111#32
  | .ovf v => v.setWidth 32
  | .raw v => v.setWidth 32
  | .snap v => v.setWidth 32
  | .zzPos m => (m ++ 0#1).setWidth 32
  | .zzNeg m => (m ++ 1#1).setWidth 32
  | .cmdNone r => r ++ 0b00#2
  | .cmdStart r => r ++ 0b01#2
  | .cmdClear r => r ++ 0b10#2
  | .cmdRsvd r => r ++ 0b11#2

/-- DESIGN CHOICE (log 10), safe: the position at which a bare word of the opcode table is read, since the table gives bits and
the machine recognises an element by its position first. A 32-bit word is a CTRL write; an 8-bit word equal to the tag is
the tag ("the fixed row is tried first", R97), any other is a residual, the one other 8-bit format with fixed bits; a
4-bit word is a code and a 2-bit word a selector. -/
def tableSlot (nbits w : Nat) : Option Slot :=
  if nbits = 32 then some .ctrl
  else if nbits = 8 then (if BitVec.ofNat 8 w = Config.tag then some .tag else some .residual)
  else if nbits = 4 then some .code4
  else if nbits = 2 then some .selector
  else none

/-- The element the decoder reads from a word of the opcode table, at the position `tableSlot` names. -/
def decodeTableWord (nbits w : Nat) : Option Instr :=
  match tableSlot nbits w with
  | none => none
  | some p => (decode p (BitVec.ofNat 32 w)).toOption

end Sys2Proof
end

