-- ==== Sys2Proof/Machine/State.lean ====
section
/-! DEFINITION. The state of one VBD instance (R20), the host's accesses to it, the reasons a step can stop, and the
machine right after reset (R39). -/

namespace Sys2Proof.Machine

/-- `STATE`, STATUS bits 1:0 (R30, R178). -/
inductive EngineState where
  | idle | busy | done | error
  deriving DecidableEq, Repr

/-- `ERR`, STATUS bits 5:4: the error class (R30, R190). -/
inductive ErrClass where
  | none | invalidArgument | corruptStream
  deriving DecidableEq, Repr

/-- `CAUSE`, STATUS bits 11:8 (R30, R190). -/
inductive Cause where
  | none | vsizeRange | vsizeAlign | blockCount | shortBuffer | badTag | tailMargin
  deriving DecidableEq, Repr

/-- The class a cause belongs to (R190). -/
def Cause.errClass : Cause → ErrClass
  | .none => .none
  | .vsizeRange | .vsizeAlign | .blockCount => .invalidArgument
  | .shortBuffer | .badTag | .tailMargin => .corruptStream

/-- The size of the codes of a packed group: `GRP.B2` (R112) or `GRP.B4` (R113). -/
inductive CodeForm where
  | b2 | b4
  deriving DecidableEq, Repr

/-- The model's own (log 1): where the engine stands in the pseudocode of R133, R152 and R173, that is, which element it
meets next. -/
inductive Pos where
  /-- no decode is under way -/
  | quiet
  /-- before the operand checks (R165, R166) -/
  | operands
  /-- before the tag byte (R167) -/
  | tag
  /-- before snapshot byte `k` (R168) -/
  | snapshot
  /-- at the head of the block loop (R172) -/
  | blockLoop
  /-- before column `k` (R131) -/
  | column
  /-- before the margin check and the header byte of group `g` (R134, R132) -/
  | group
  /-- before the group form that the extracted selector names (R110) -/
  | selector (sel : BitVec 2)
  /-- before the packed byte of residual `j` (R112, R113) -/
  | packed
  /-- before the code of residual `j` (R112, R113) -/
  | code
  /-- before the overflow byte of residual `j` (R116) -/
  | overflow
  /-- before raw byte `j` (R114) -/
  | raw
  /-- before residual `i` of the delta pass of column `k` (R152) -/
  | residual
  /-- before the commit of the block and the last-vertex update (R156, R157) -/
  | commit
  deriving DecidableEq, Repr

/-- The width of a host access to the register space (R35, U6). -/
inductive AccessWidth where
  | byte | half | word
  deriving DecidableEq, Repr

/-- The model's own (log 2): one thing the host does, or lets happen. -/
inductive HostOp where
  /-- writes `value` to the register at byte offset `offset` (R28) -/
  | writeReg (width : AccessWidth) (offset : Nat) (value : Word)
  /-- reads the register at byte offset `offset` (R28) -/
  | readReg (width : AccessWidth) (offset : Nat)
  /-- writes one byte of IN (R36, R50) -/
  | writeIn (address : Nat) (value : Byte)
  /-- reads one byte of OUT (R36, R50) -/
  | readOut (address : Nat)
  /-- tries to read IN, which this spec does not define (U11) -/
  | readIn (address : Nat)
  /-- tries to write OUT, which this spec does not define (U11) -/
  | writeOut (address : Nat) (value : Byte)
  /-- acts on the status word it has just read (R227 "if s = 0x002 ... else"): the reads of `OUT[0 .. count-1]`, or that of
  CUR, are its next accesses -/
  | readOutcome (count : Nat)
  /-- drives the reset input (R220) -/
  | setRst (level : Bool)
  /-- lets the engine take one step -/
  | pass
  /-- lets the engine run until STATE is not BUSY (R227 "repeat ... until") -/
  | await
  deriving DecidableEq, Repr

/-- A byte array or buffer: the cells something has written, as (address, byte) pairs. In canonical form (`Memory.wf`)
the addresses strictly rise; an address that is not listed holds a free value (`State.unlisted`, log 5). -/
abbrev Memory := List Host.Cell

/-- Canonical form: the addresses strictly rise. An unlisted cell holds no value that an entry could repeat, so nothing
more is asked; equal contents are then equal lists. -/
def Memory.wf : Memory → Bool
  | [] => true
  | [_] => true
  | (a, _) :: (b, v) :: rest => decide (a < b) && Memory.wf ((b, v) :: rest)

/-- The complete state of one VBD instance (R20), and the model's own fields (INVENTORY.md, State). -/
structure State where
  /-- `STATE` (R30) -/
  engine : EngineState
  /-- `ERR` (R30) -/
  err : ErrClass
  /-- `CAUSE` (R30) -/
  cause : Cause
  /-- `VCOUNT` (R31) -/
  vcount : Word
  /-- `VSIZE` (R32) -/
  vsize : Word
  /-- `INLEN` (R33) -/
  inlen : Word
  /-- the data cursor, the block's program counter (R24) -/
  cur : Nat
  /-- vertices committed (R25) -/
  voff : Nat
  /-- block size of this decode (R25, R170) -/
  bsize : Nat
  /-- vertices of the current block (R25) -/
  bcount : Nat
  /-- residuals per column of the current block (R25, R151) -/
  n : Nat
  /-- column, or snapshot byte, under way (R25, R168) -/
  k : Nat
  /-- address of the column's first header byte (R25) -/
  hdr : Nat
  /-- group within the column (R25) -/
  g : Nat
  /-- `LASTV[0..255]` (R21) -/
  lastv : Memory
  /-- `COL[0..255]` (R22) -/
  col : Memory
  /-- `BLK[0..8191]` (R23) -/
  blk : Memory
  /-- `IN` (R36) -/
  inBuf : Memory
  /-- `OUT` (R36) -/
  outBuf : Memory
  /-- the reset input (R220) -/
  rst : Bool
  /-- `j` of R112 to R114: residual within the group -/
  j : Nat
  /-- `ov` of R112, R113: the overflow cursor -/
  ov : Nat
  /-- `P` of R112, R113: the packed byte being read -/
  packed : Byte
  /-- `i` of R152: vertex within the block -/
  i : Nat
  /-- `p` of R152: the rolling predictor (R149) -/
  p : Byte
  /-- the model's own: the engine's place in the pseudocode (log 1) -/
  pos : Pos
  /-- the model's own: the code size of the group under way (log 1) -/
  form : CodeForm
  /-- the parameters of R8, which no step changes (log 3, 4) -/
  config : Config
  /-- the model's own: what the host does next, oldest first (log 2) -/
  pending : List HostOp
  /-- the model's own: what the latest host read returned (log 2) -/
  readData : Word
  /-- the model's own: index of the next free value of a host read (log 7) -/
  freeCount : Nat
  /-- the model's own: the reset that unwritten cells of LASTV, COL, BLK and IN date from (log 5) -/
  resetEpoch : Nat
  /-- the model's own: the reset or error that unwritten cells of OUT date from (log 5, 8) -/
  outEpoch : Nat
  deriving DecidableEq, Repr

/-- Why a step stops with a fault: an access to a cell that does not exist. -/
inductive Fault where
  /-- Raised by the engine's fetch when it would read IN at or above INLEN, where `MemRead` is not defined (R11). Safe: no
  decode begun by START does so (R136). -/
  | inBeyondLength
  /-- Raised by a host write of IN at or above IN_CAP, a cell that does not exist (R50). Safe: the model stops. -/
  | inBeyondCapacity
  /-- Raised by the commit of a block, or by a host read of OUT, at or above OUT_CAP, a cell that does not exist (R50). Safe:
  the model stops; U5 keeps a decode from it. -/
  | outBeyondCapacity
  deriving DecidableEq, Repr

/-- Why a step is refused. But for `notModelled`, each is a "refuse" of 93_implementation_defined.md part 2. -/
inductive Refusal where
  /-- Raised by an arm of `exec` whose instruction has no meaning yet. Safe. No arm does so now. -/
  | notModelled (mnemonic : String)
  /-- Raised by an accepted START with INLEN > IN_CAP or VCOUNT * VSIZE > OUT_CAP (U5). Safe: nothing is claimed. -/
  | startBeyondCapacity
  /-- Raised by a host write of IN while BUSY (U2). Safe: nothing is claimed. -/
  | inWriteWhileBusy
  /-- Raised by a register access that is not an aligned 32-bit word (U6). Safe: nothing is claimed. -/
  | partialRegisterAccess
  /-- Raised by a host read of IN (U11). Safe: nothing is claimed. -/
  | hostReadOfIn
  /-- Raised by a host write of OUT (U11). Safe: nothing is claimed. -/
  | hostWriteOfOut
  deriving DecidableEq, Repr

/-- The machine right after reset (R39, R220): STATE, ERR, CAUSE, the operand registers and `cur` as the table says; no
cell of any array listed ("unspecified"); the counters at values the model names (log 6); the reset input low, as on the
first edge that leaves reset. -/
def State.reset : State where
  engine := .idle
  err := .none
  cause := .none
  vcount := 0#32
  vsize := 0#32
  inlen := 0#32
  cur := 0
  voff := 0
  bsize := 0
  bcount := 0
  n := 0
  k := 0
  hdr := 0
  g := 0
  lastv := []
  col := []
  blk := []
  inBuf := []
  outBuf := []
  rst := false
  j := 0
  ov := 0
  packed := 0#8
  i := 0
  p := 0#8
  pos := .quiet
  form := .b2
  config := Config.machine
  pending := []
  readData := 0#32
  freeCount := 0
  resetEpoch := 0
  outEpoch := 0

end Sys2Proof.Machine
end

