-- ==== Sys2Proof/Machine/Operands.lean ====
section
/-! DEFINITION. The operand forms of the stream (R84, R88, R89, R93, R94) and the arithmetic of the VBD (R10, R146, R150,
R170): pure functions that the meanings share. -/

namespace Sys2Proof.Machine

/-- `ceil(a / b)` of R10. -/
def ceilDiv (a b : Nat) : Nat := (a + b - 1) / b

/-- `roundUp(a, m)` of R10. -/
def roundUp (a m : Nat) : Nat := m * ceilDiv a m

/-- `roundDown(a, m)` of R10. -/
def roundDown (a m : Nat) : Nat := m * (a / m)

/-- `hs = ceil(G / 4)`: header bytes of a column of `G` groups (R83, R131). -/
def headerBytes (groups : Nat) : Nat := ceilDiv groups Config.selPerHdr

/-- `bsize = min(256, roundDown(8192 div VSIZE, 16))` (R170). -/
def blockSize (vsize : Nat) : Nat := min Config.blockMax (roundDown (Config.blockBytes / vsize) Config.group)

/-- The selector of group `g` among the four fields of its header byte, low bits first (R84, R132). -/
def selectorOf (a b c d : BitVec 2) (g : Nat) : BitVec 2 :=
  match g % Config.selPerHdr with
  | 0 => a
  | 1 => b
  | 2 => c
  | _ => d

/-- The byte whose bits 7:6, 5:4, 3:2, 1:0 are `a`, `b`, `c`, `d` (R88). -/
def packedByte2 (a b c d : BitVec 2) : Byte := a ++ b ++ c ++ d

/-- The byte whose bits 7:4 and 3:0 are `a` and `b` (R89). -/
def packedByte4 (a b : BitVec 4) : Byte := a ++ b

/-- The 2-bit code at place `s` (0..3) of a packed byte, in the given order (the formulas of R88). -/
def code2 (order : CodeOrder) (packed : Byte) (s : Nat) : BitVec 2 :=
  match order with
  | .msbFirst => (packed >>> (6 - 2 * s)).setWidth 2
  | .lsbFirst => (packed >>> (2 * s)).setWidth 2

/-- The 4-bit code at place `s` (0..1) of a packed byte, in the given order (the formulas of R89). -/
def code4 (order : CodeOrder) (packed : Byte) (s : Nat) : BitVec 4 :=
  match order with
  | .msbFirst => (packed >>> (4 - 4 * s)).setWidth 4
  | .lsbFirst => (packed >>> (4 * s)).setWidth 4

/-- Codes per packed byte (R88, R89). -/
def CodeForm.perByte : CodeForm → Nat
  | .b2 => 4
  | .b4 => 2

/-- Packed bytes of a group, `pk` of R90: the overflow bytes stand after them. -/
def CodeForm.packedBytes : CodeForm → Nat
  | .b2 => 4
  | .b4 => 8

/-- The code at place `s` of a packed byte, zero-extended to a byte: `zext_8(c)` of R10 and R93. -/
def CodeForm.codeAt (form : CodeForm) (order : CodeOrder) (packed : Byte) (s : Nat) : Byte :=
  match form with
  | .b2 => (code2 order packed s).setWidth 8
  | .b4 => (code4 order packed s).setWidth 8

/-- `unzigzag(v) = neg8(v & 1) ^ (v >> 1)` (R146). -/
def unzigzag (v : Byte) : Byte := (-(v &&& 1#8)) ^^^ (v >>> 1)

/-- The delta `+m` of a residual `2m`, as a `u8` (R94). -/
def positiveDelta (m : BitVec 7) : Byte := m.setWidth 8

/-- The delta `-(m + 1)` of a residual `2m + 1`, as the `u8` `255 - m` (R94). -/
def negativeDelta (m : BitVec 7) : Byte := 255#8 - m.setWidth 8

end Sys2Proof.Machine
end

