-- ==== Sys2Proof/Machine/Flags.lean ====
section
/-! DEFINITION. What plays a flag's part in the VBD (R27): the escape predicate of a code, the margin test, the fields of
STATUS and the completion output. There are no condition codes; the 8-bit additions wrap and record nothing (R148). -/

namespace Sys2Proof.Machine

/-- `esc(c, bits) = (c = 2^bits - 1)` (R27, R115), on the zero-extended code. -/
def CodeForm.escapes : CodeForm → Byte → Bool
  | .b2, c => c == 3#8
  | .b4, c => c == 15#8

/-- The margin check passes: the cursor is not beyond the buffer and at least 32 bytes remain (R133, R134). -/
def State.marginOk (s : State) : Bool :=
  decide (s.cur ≤ s.inlen.toNat ∧ Config.tailMargin ≤ s.inlen.toNat - s.cur)

/-- The number of `STATE` in STATUS bits 1:0 (R30). -/
def EngineState.code : EngineState → BitVec 2
  | .idle => 0#2
  | .busy => 1#2
  | .done => 2#2
  | .error => 3#2

/-- The number of `ERR` in STATUS bits 5:4 (R30). -/
def ErrClass.code : ErrClass → BitVec 2
  | .none => 0#2
  | .invalidArgument => 1#2
  | .corruptStream => 2#2

/-- The number of `CAUSE` in STATUS bits 11:8 (R30). -/
def Cause.code : Cause → BitVec 4
  | .none => 0#4
  | .vsizeRange => 1#4
  | .vsizeAlign => 2#4
  | .blockCount => 3#4
  | .shortBuffer => 4#4
  | .badTag => 5#4
  | .tailMargin => 6#4

/-- The word STATUS reads as; its reserved bits 3:2, 7:6 and 31:12 are 0 (R30). -/
def State.statusWord (s : State) : Word :=
  0#20 ++ s.cause.code ++ 0#2 ++ s.err.code ++ 0#2 ++ s.engine.code

/-- The completion output: 1 exactly when STATE is DONE or ERROR (R198). -/
def State.irq (s : State) : Bool := decide (s.engine = .done ∨ s.engine = .error)

end Sys2Proof.Machine
end

