-- ==== Sys2Proof/Machine/Ops.lean ====
section
/-! DEFINITION. The named operations over the arrays and buffers (R11), and the two changes of STATE that every exception
and every return go through (R201 to R204). -/

namespace Sys2Proof.Machine

/-- The listed byte at an address, if any. -/
def Memory.get? : Memory → Nat → Option Byte
  | [], _ => none
  | (x, b) :: rest, a => if x = a then some b else Memory.get? rest a

/-- Write one byte, keeping the addresses strictly rising. -/
def Memory.put : Memory → Nat → Byte → Memory
  | [], a, v => [(a, v)]
  | (x, b) :: rest, a, v =>
    if a < x then (a, v) :: (x, b) :: rest
    else if a = x then (a, v) :: rest
    else (x, b) :: Memory.put rest a v

/-- Write a list of bytes at consecutive addresses: `MemWrite` of R11. -/
def Memory.putRun : Memory → Nat → List Byte → Memory
  | m, _, [] => m
  | m, a, v :: vs => Memory.putRun (Memory.put m a v) (a + 1) vs

/-- Every listed address is below a bound: the cells that exist. -/
def Memory.below (m : Memory) (bound : Nat) : Prop := ∀ c ∈ m, c.1 < bound

/-- What a cell that nothing has written holds: a free value of that cell (log 5; R39, U7, U9, U10). -/
def State.unlisted (s : State) (bank : Bank) (a : Nat) : Byte :=
  match bank with
  | .output => Config.unspecified .output s.outEpoch a
  | .lastv | .col | .blk | .input => Config.unspecified bank s.resetEpoch a

/-- The cells of an array or buffer. -/
def State.bank (s : State) : Bank → Memory
  | .lastv => s.lastv
  | .col => s.col
  | .blk => s.blk
  | .input => s.inBuf
  | .output => s.outBuf

/-- The model's read of one byte of any of the five arrays and buffers. -/
def State.cell (s : State) (bank : Bank) (a : Nat) : Byte :=
  match (s.bank bank).get? a with
  | some b => b
  | none => s.unlisted bank a

/-- `LASTV[a] <- v`. -/
def State.writeLastv (s : State) (a : Nat) (v : Byte) : State := { s with lastv := s.lastv.put a v }

/-- `COL[a] <- v`. -/
def State.writeCol (s : State) (a : Nat) (v : Byte) : State := { s with col := s.col.put a v }

/-- `BLK[a] <- v`. -/
def State.writeBlk (s : State) (a : Nat) (v : Byte) : State := { s with blk := s.blk.put a v }

/-- `IN[a] <- v`, the host's. -/
def State.writeIn (s : State) (a : Nat) (v : Byte) : State := { s with inBuf := s.inBuf.put a v }

/-- The bytes `BLK[a .. a + count - 1]`. -/
def State.blkRun (s : State) (a count : Nat) : List Byte :=
  (List.range count).map fun x => s.cell .blk (a + x)

/-- `count` cells fit a capacity; "no bound" fits everything (U5). -/
def capacityHolds (capacity : Option Nat) (count : Nat) : Bool :=
  match capacity with
  | none => true
  | some c => decide (count ≤ c)

/-- TAKING AN EXCEPTION (R201, R202): STATE becomes ERROR with the class and the cause; `cur`, the operand registers and IN
stay; the decode is over. OUT becomes unspecified in its whole extent (R203, D17, log 8): nothing is listed any more and
the unlisted cells are new free values. -/
def takeException (c : Cause) (s : State) : State :=
  { s with
    engine := .error
    err := c.errClass
    cause := c
    pos := .quiet
    outBuf := []
    outEpoch := s.outEpoch + 1 }

/-- RETURN FROM AN EXCEPTION, and from a finished decode (R181, R204): what an accepted CLEAR does. -/
def returnToIdle (s : State) : State :=
  { s with engine := .idle, err := .none, cause := .none, cur := 0 }

/-- What an accepted START does at once (R179). -/
def beginDecode (s : State) : State :=
  { s with engine := .busy, err := .none, cause := .none, cur := 0, pos := .operands }

/-- Completion (R176). No check is made on `cur`. -/
def completeDecode (s : State) : State :=
  { s with engine := .done, err := .none, cause := .none, pos := .quiet }

/-- The state while the reset input is high, and the state it leaves (R220, R222, R223): everything as after reset, the
parameters, the host's own fields and the counters of free values kept, every array unspecified anew. -/
def resetState (s : State) : State :=
  { State.reset with
    rst := true
    config := s.config
    pending := s.pending
    readData := s.readData
    freeCount := s.freeCount
    resetEpoch := s.resetEpoch + 1
    outEpoch := s.outEpoch + 1 }

end Sys2Proof.Machine
end

