-- ==== Sys2Proof/Machine/Sequence.lean ====
section
/-! DEFINITION. How the engine goes on after an element: the loops over codes, groups, vertices and columns (R112, R113,
R133, R152), shared by the meanings. -/

namespace Sys2Proof.Machine

/-- `COL[16*g + j] <- v`: residual `j` of group `g` (R133). -/
def storeResidual (v : Byte) (s : State) : State := s.writeCol (Config.group * s.g + s.j) v

/-- The group is decoded and ends at `a'`: `cur <- a'`, then the next group of the column (R133), or, after group `G - 1`,
the delta pass of the column: `p <- LASTV[k]`, vertex 0 (R152). -/
def endGroup (a' : Nat) (s : State) : State :=
  if s.g + 1 < s.n / Config.group then { s with cur := a', g := s.g + 1, pos := .group }
  else { s with cur := a', i := 0, p := s.cell .lastv s.k, pos := .residual }

/-- After the residual of a code: the next code, the next packed byte, or the end of the group at the overflow cursor
(R112, R113: `a' <- ov`). -/
def nextCode (form : CodeForm) (s : State) : State :=
  if s.j + 1 < Config.group then
    { s with j := s.j + 1, pos := if (s.j + 1) % form.perByte = 0 then .packed else .code }
  else endGroup s.ov s

/-- A group of packed codes begins at `a = cur`: `ov <- a + pk`, residual 0 (R112, R113). -/
def beginPacked (form : CodeForm) (s : State) : State :=
  { s with form := form, j := 0, ov := s.cur + form.packedBytes, pos := .packed }

/-- A literal code: the residual is its numeric value, zero-extended (R93, R115). -/
def literalCode (form : CodeForm) (v : Byte) (s : State) : State := nextCode form (storeResidual v s)

/-- An escape code: the residual is the next overflow byte, which the engine meets next (R93, R115). -/
def escapeCode (form : CodeForm) (s : State) : State := { s with form := form, pos := .overflow }

/-- One step of the delta pass: `v <- delta +8 p`, `BLK[i * VSIZE + k] <- v`, `p <- v` (R148, R152, R154); then the next
vertex, the next column, or the commit. -/
def deltaStep (delta : Byte) (s : State) : State :=
  let t := { s.writeBlk (s.i * s.vsize.toNat + s.k) (delta + s.p) with p := delta + s.p }
  if s.i + 1 < s.bcount then { t with i := s.i + 1 }
  else if s.k + 1 < s.vsize.toNat then { t with k := s.k + 1, pos := .column }
  else { t with pos := .commit }

end Sys2Proof.Machine
end

