-- ==== Sys2Proof/Machine/BlockDecoder.lean ====
section
/-! DEFINITION. The block decoder (42_block_decoder.md): the delta step of a residual, the commit of a block and the
update of the last-vertex state. -/

namespace Sys2Proof.Machine

/-- `ZZ.POS` (R94, R146, R152): delta `+m`. -/
def execZzPos (m : BitVec 7) (s : State) : Host.Outcome State Fault Refusal := .next (deltaStep (positiveDelta m) s)

/-- `ZZ.NEG` (R94, R146, R152): delta `-(m + 1)`. -/
def execZzNeg (m : BitVec 7) (s : State) : Host.Outcome State Fault Refusal := .next (deltaStep (negativeDelta m) s)

/-- The effects of steps 3 and 4 of a block and of the end of one turn of the block loop: the block goes to OUT at
`voff * VSIZE` (R156), its last vertex to LASTV (R157), and `voff <- voff + bcount` (R172). -/
def committed (s : State) : State :=
  { s with
    outBuf := s.outBuf.putRun (s.voff * s.vsize.toNat) (s.blkRun 0 (s.bcount * s.vsize.toNat))
    lastv := s.lastv.putRun 0 (s.blkRun (s.vsize.toNat * (s.bcount - 1)) s.vsize.toNat)
    voff := s.voff + s.bcount
    pos := .blockLoop }

/-- The commit (R156, R157). A cell of OUT at or above OUT_CAP does not exist; the precondition of START (U5) keeps a
decode from it. -/
def commitBlock (s : State) : Host.Outcome State Fault Refusal :=
  if capacityHolds s.config.outCap ((s.voff + s.bcount) * s.vsize.toNat) then .next (committed s)
  else .fault .outBeyondCapacity

end Sys2Proof.Machine
end

