-- ==== Sys2Proof/Machine/Commands.lean ====
section
/-! DEFINITION. The host commands (R178 to R182): the values written to CTRL. -/

namespace Sys2Proof.Machine

/-- The operands fit the buffers: the precondition of START (R234, U5). -/
def State.capacitiesHold (s : State) : Bool :=
  capacityHolds s.config.inCap s.inlen.toNat && capacityHolds s.config.outCap (s.vcount.toNat * s.vsize.toNat)

/-- `CMD.NONE` (R182): nothing, in every state. Bits 31:2 are ignored (R29). -/
def execCmdNone (_reserved : BitVec 30) (s : State) : Host.Outcome State Fault Refusal := .next s

/-- `CMD.START` (R179): accepted in IDLE only, ignored in every other state (R182). An accepted START whose operands exceed
the capacities is outside the contract and refused (U5). -/
def execCmdStart (_reserved : BitVec 30) (s : State) : Host.Outcome State Fault Refusal :=
  if s.engine = .idle then
    if s.capacitiesHold then .next (beginDecode s) else .refused .startBeyondCapacity
  else .next s

/-- `CMD.CLEAR` (R181): accepted in DONE and ERROR only, ignored in every other state (R182). -/
def execCmdClear (_reserved : BitVec 30) (s : State) : Host.Outcome State Fault Refusal :=
  if s.engine = .done ∨ s.engine = .error then .next (returnToIdle s) else .next s

/-- `CMD.RSVD` (R29, R182): the reserved combination does nothing, in every state. -/
def execCmdRsvd (_reserved : BitVec 30) (s : State) : Host.Outcome State Fault Refusal := .next s

end Sys2Proof.Machine
end

