-- ==== Sys2Proof/Machine/GroupDecoder.lean ====
section
/-! DEFINITION. The group decoder (40_group_decoder.md): the four group forms, the packed bytes, the codes, the overflow
and raw bytes. -/

namespace Sys2Proof.Machine

/-- `GRP.Z` (R111): sixteen zero residuals, no byte consumed. -/
def execGrpZ (s : State) : Host.Outcome State Fault Refusal :=
  .next (endGroup s.cur { s with col := s.col.putRun (Config.group * s.g) (List.replicate Config.group 0#8) })

/-- `GRP.B2` (R112): 4 packed bytes of 2-bit codes at `cur`, overflow bytes after them. -/
def execGrpB2 (s : State) : Host.Outcome State Fault Refusal := .next (beginPacked .b2 s)

/-- `GRP.B4` (R113): 8 packed bytes of 4-bit codes at `cur`, overflow bytes after them. -/
def execGrpB4 (s : State) : Host.Outcome State Fault Refusal := .next (beginPacked .b4 s)

/-- `GRP.B8` (R114): 16 raw bytes at `cur`. -/
def execGrpB8 (s : State) : Host.Outcome State Fault Refusal := .next { s with j := 0, pos := .raw }

/-- `PACK2` (R88, R112): `P <- ` the byte; its four codes follow. -/
def execPack2 (a b c d : BitVec 2) (s : State) : Host.Outcome State Fault Refusal :=
  .next { s with form := .b2, packed := packedByte2 a b c d, pos := .code }

/-- `PACK4` (R89, R113): `P <- ` the byte; its two codes follow. -/
def execPack4 (a b : BitVec 4) (s : State) : Host.Outcome State Fault Refusal :=
  .next { s with form := .b4, packed := packedByte4 a b, pos := .code }

/-- `C2.LIT0` (R115): residual 0. -/
def execC2Lit0 (s : State) : Host.Outcome State Fault Refusal := .next (literalCode .b2 0#8 s)

/-- `C2.LIT1` (R115): residual 1. -/
def execC2Lit1 (s : State) : Host.Outcome State Fault Refusal := .next (literalCode .b2 1#8 s)

/-- `C2.LIT2` (R115): residual 2. -/
def execC2Lit2 (s : State) : Host.Outcome State Fault Refusal := .next (literalCode .b2 2#8 s)

/-- `C2.ESC` (R115): residual = the next overflow byte. -/
def execC2Esc (s : State) : Host.Outcome State Fault Refusal := .next (escapeCode .b2 s)

/-- `C4.LIT0` (R115): residual 0. -/
def execC4Lit0 (s : State) : Host.Outcome State Fault Refusal := .next (literalCode .b4 0#8 s)

/-- `C4.LIT1` (R115): residual 1. -/
def execC4Lit1 (s : State) : Host.Outcome State Fault Refusal := .next (literalCode .b4 1#8 s)

/-- `C4.LIT2` (R115): residual 2. -/
def execC4Lit2 (s : State) : Host.Outcome State Fault Refusal := .next (literalCode .b4 2#8 s)

/-- `C4.LIT3` (R115): residual 3. -/
def execC4Lit3 (s : State) : Host.Outcome State Fault Refusal := .next (literalCode .b4 3#8 s)

/-- `C4.LIT4` (R115): residual 4. -/
def execC4Lit4 (s : State) : Host.Outcome State Fault Refusal := .next (literalCode .b4 4#8 s)

/-- `C4.LIT5` (R115): residual 5. -/
def execC4Lit5 (s : State) : Host.Outcome State Fault Refusal := .next (literalCode .b4 5#8 s)

/-- `C4.LIT6` (R115): residual 6. -/
def execC4Lit6 (s : State) : Host.Outcome State Fault Refusal := .next (literalCode .b4 6#8 s)

/-- `C4.LIT7` (R115): residual 7. -/
def execC4Lit7 (s : State) : Host.Outcome State Fault Refusal := .next (literalCode .b4 7#8 s)

/-- `C4.LIT8` (R115): residual 8. -/
def execC4Lit8 (s : State) : Host.Outcome State Fault Refusal := .next (literalCode .b4 8#8 s)

/-- `C4.LIT9` (R115): residual 9. -/
def execC4Lit9 (s : State) : Host.Outcome State Fault Refusal := .next (literalCode .b4 9#8 s)

/-- `C4.LIT10` (R115): residual 10. -/
def execC4Lit10 (s : State) : Host.Outcome State Fault Refusal := .next (literalCode .b4 10#8 s)

/-- `C4.LIT11` (R115): residual 11. -/
def execC4Lit11 (s : State) : Host.Outcome State Fault Refusal := .next (literalCode .b4 11#8 s)

/-- `C4.LIT12` (R115): residual 12. -/
def execC4Lit12 (s : State) : Host.Outcome State Fault Refusal := .next (literalCode .b4 12#8 s)

/-- `C4.LIT13` (R115): residual 13. -/
def execC4Lit13 (s : State) : Host.Outcome State Fault Refusal := .next (literalCode .b4 13#8 s)

/-- `C4.LIT14` (R115): residual 14. -/
def execC4Lit14 (s : State) : Host.Outcome State Fault Refusal := .next (literalCode .b4 14#8 s)

/-- `C4.ESC` (R115): residual = the next overflow byte. -/
def execC4Esc (s : State) : Host.Outcome State Fault Refusal := .next (escapeCode .b4 s)

/-- `OVF` (R112, R113, R116): `res[j] <- v; ov <- ov + 1`, verbatim. -/
def execOvf (v : Byte) (s : State) : Host.Outcome State Fault Refusal :=
  .next (nextCode s.form { storeResidual v s with ov := s.ov + 1 })

/-- `RAW` (R114): `res[j] <- v`; the group ends after sixteen of them, at `cur + 16`. -/
def execRaw (v : Byte) (s : State) : Host.Outcome State Fault Refusal :=
  .next (if s.j + 1 < Config.group then { storeResidual v s with j := s.j + 1 }
    else endGroup (s.cur + Config.group) (storeResidual v s))

end Sys2Proof.Machine
end

