-- ==== Sys2Proof/Machine/PlaneDecoder.lean ====
section
/-! DEFINITION. The byte-plane decoder (41_byte_plane_decoder.md): column entry and the header byte. -/

namespace Sys2Proof.Machine

/-- The header region of a column (R131): `hdr <- cur; cur <- cur + hs`, group 0. No byte is read and no length checked. -/
def enterColumn (s : State) : State :=
  { s with hdr := s.cur, cur := s.cur + headerBytes (s.n / Config.group), g := 0, pos := .group }

/-- `HDR` (R84, R132): the selector of group `g` is extracted from its header byte; the other fields are not looked at. -/
def execHdr (a b c d : BitVec 2) (s : State) : Host.Outcome State Fault Refusal :=
  .next { s with pos := .selector (selectorOf a b c d s.g) }

end Sys2Proof.Machine
end

