-- ==== Sys2Proof/Machine/StreamDecoder.lean ====
section
/-! DEFINITION. The stream sequencer (43_stream_decoder.md): operand checks, tag, snapshot and the head of the block
loop. -/

namespace Sys2Proof.Machine

/-- The operand checks, in the order of R169: VSIZE_RANGE, VSIZE_ALIGN (R165), SHORT_BUFFER (R166). -/
def checkOperands (s : State) : State :=
  if s.vsize.toNat < 1 ∨ Config.vsizeMax < s.vsize.toNat then takeException .vsizeRange s
  else if s.vsize.toNat % 4 ≠ 0 then takeException .vsizeAlign s
  else if s.inlen.toNat < 1 + s.vsize.toNat then takeException .shortBuffer s
  else { s with cur := 0, pos := .tag }

/-- `TAG` (R167): the block cursor stands at offset 1; the snapshot is read next (R169). -/
def execTag (s : State) : Host.Outcome State Fault Refusal := .next { s with cur := 1, k := 0, pos := .snapshot }

/-- `SNAP` (R91, R168): `LASTV[k] <- v`, raw; `cur` does not move. After byte `VSIZE - 1` the block size is computed (R170)
and the block loop begins at vertex 0 (R172). -/
def execSnap (v : Byte) (s : State) : Host.Outcome State Fault Refusal :=
  .next (if s.k + 1 < s.vsize.toNat then { s.writeLastv s.k v with k := s.k + 1 }
    else { s.writeLastv s.k v with bsize := blockSize s.vsize.toNat, voff := 0, pos := .blockLoop })

/-- `bcount = min(bsize, VCOUNT - voff)` (R172). -/
def State.nextBlockCount (s : State) : Nat := min s.bsize (s.vcount.toNat - s.voff)

/-- The head of the block loop (R172): the next block, with its defensive count check (R158) and `n` (R151), column 0; or
completion (R176). -/
def enterBlock (s : State) : State :=
  if s.voff < s.vcount.toNat then
    if s.nextBlockCount < 1 ∨ Config.blockMax < s.nextBlockCount then takeException .blockCount s
    else
      { s with
        bcount := s.nextBlockCount
        n := roundUp s.nextBlockCount Config.group
        k := 0
        pos := .column }
  else completeDecode s

end Sys2Proof.Machine
end

