-- ==== Sys2Proof/Machine/Dispatch.lean ====
section
/-! DEFINITION. One arm per element of R97. -/

namespace Sys2Proof.Machine

def exec (i : Instr) (s : State) : Host.Outcome State Fault Refusal :=
  match i with
  | .tag => Sys2Proof.Machine.execTag s
  | .hdr a b c d => Sys2Proof.Machine.execHdr a b c d s
  | .grpZ => Sys2Proof.Machine.execGrpZ s
  | .grpB2 => Sys2Proof.Machine.execGrpB2 s
  | .grpB4 => Sys2Proof.Machine.execGrpB4 s
  | .grpB8 => Sys2Proof.Machine.execGrpB8 s
  | .pack2 a b c d => Sys2Proof.Machine.execPack2 a b c d s
  | .pack4 a b => Sys2Proof.Machine.execPack4 a b s
  | .c2Lit0 => Sys2Proof.Machine.execC2Lit0 s
  | .c2Lit1 => Sys2Proof.Machine.execC2Lit1 s
  | .c2Lit2 => Sys2Proof.Machine.execC2Lit2 s
  | .c2Esc => Sys2Proof.Machine.execC2Esc s
  | .c4Lit0 => Sys2Proof.Machine.execC4Lit0 s
  | .c4Lit1 => Sys2Proof.Machine.execC4Lit1 s
  | .c4Lit2 => Sys2Proof.Machine.execC4Lit2 s
  | .c4Lit3 => Sys2Proof.Machine.execC4Lit3 s
  | .c4Lit4 => Sys2Proof.Machine.execC4Lit4 s
  | .c4Lit5 => Sys2Proof.Machine.execC4Lit5 s
  | .c4Lit6 => Sys2Proof.Machine.execC4Lit6 s
  | .c4Lit7 => Sys2Proof.Machine.execC4Lit7 s
  | .c4Lit8 => Sys2Proof.Machine.execC4Lit8 s
  | .c4Lit9 => Sys2Proof.Machine.execC4Lit9 s
  | .c4Lit10 => Sys2Proof.Machine.execC4Lit10 s
  | .c4Lit11 => Sys2Proof.Machine.execC4Lit11 s
  | .c4Lit12 => Sys2Proof.Machine.execC4Lit12 s
  | .c4Lit13 => Sys2Proof.Machine.execC4Lit13 s
  | .c4Lit14 => Sys2Proof.Machine.execC4Lit14 s
  | .c4Esc => Sys2Proof.Machine.execC4Esc s
  | .ovf v => Sys2Proof.Machine.execOvf v s
  | .raw v => Sys2Proof.Machine.execRaw v s
  | .snap v => Sys2Proof.Machine.execSnap v s
  | .zzPos m => Sys2Proof.Machine.execZzPos m s
  | .zzNeg m => Sys2Proof.Machine.execZzNeg m s
  | .cmdNone r => Sys2Proof.Machine.execCmdNone r s
  | .cmdStart r => Sys2Proof.Machine.execCmdStart r s
  | .cmdClear r => Sys2Proof.Machine.execCmdClear r s
  | .cmdRsvd r => Sys2Proof.Machine.execCmdRsvd r s

end Sys2Proof.Machine
end

