-- ==== Sys2Proof/Machine/Fetch.lean ====
section
/-! DEFINITION. The element the engine meets next: its position and its bits (R97, R58). -/

namespace Sys2Proof.Machine

/-- What the engine has before it: the bits of an element, a cell that does not exist, or nothing of the stream. -/
inductive Presented where
  | element (slot : Slot) (bits : Word)
  | missing (reason : Fault)
  | internal
  deriving DecidableEq, Repr

/-- `MemRead(IN, a, 1)` (R11): defined below INLEN only, and for cells that exist. -/
def State.presentIn (s : State) (slot : Slot) (a : Nat) : Presented :=
  if a < s.inlen.toNat then
    if capacityHolds s.config.inCap (a + 1) then .element slot ((s.cell .input a).setWidth 32)
    else .missing .inBeyondCapacity
  else .missing .inBeyondLength

/-- The slot of a packed byte. -/
def CodeForm.packedSlot : CodeForm → Slot
  | .b2 => .pack2
  | .b4 => .pack4

/-- The slot of a code. -/
def CodeForm.codeSlot : CodeForm → Slot
  | .b2 => .code2
  | .b4 => .code4

/-- The element at the engine's position, with the address the rules give it: the tag at 0 (R167), snapshot byte `k` at
`INLEN - VSIZE + k` (R168), the header byte of group `g` at `hdr + g div 4` (R132), the selector, packed byte and code of
residual `j` (R112, R113, CODE_ORDER), the overflow byte at `ov` (R116), raw byte `j` at `cur + j` (R114), residual `i` of the
delta pass in `COL[i]` (R152). -/
def State.presented (s : State) : Presented :=
  match s.pos with
  | .tag => s.presentIn .tag 0
  | .snapshot => s.presentIn .snapshot (s.inlen.toNat - s.vsize.toNat + s.k)
  | .group => s.presentIn .header (s.hdr + s.g / Config.selPerHdr)
  | .selector sel => .element .selector (sel.setWidth 32)
  | .packed => s.presentIn s.form.packedSlot (s.cur + s.j / s.form.perByte)
  | .code =>
    .element s.form.codeSlot ((s.form.codeAt s.config.codeOrder s.packed (s.j % s.form.perByte)).setWidth 32)
  | .overflow => s.presentIn .overflow s.ov
  | .raw => s.presentIn .raw (s.cur + s.j)
  | .residual => .element .residual ((s.cell .col s.i).setWidth 32)
  | .quiet | .operands | .blockLoop | .column | .commit => .internal

end Sys2Proof.Machine
end

