-- ==== Sys2Proof/Machine/HostBus.lean ====
section
/-! DEFINITION. The host's side: the register map (R28 to R35), IN writes and OUT reads (R36, R50), reset (R220). -/

namespace Sys2Proof.Machine

/-- What an aligned word read of the register space returns (R28 to R34). `CTRL` reads as 0 (R29), `CUR` reads 0 in IDLE, the
cursor in DONE and ERROR, and a free value in BUSY (R34, U3); offsets from 0x18 read 0. -/
def State.registerWord (s : State) (offset : Nat) : Word :=
  match offset with
  | 0x04 => s.statusWord
  | 0x08 => s.vcount
  | 0x0C => s.vsize
  | 0x10 => s.inlen
  | 0x14 =>
    match s.engine with
    | .idle => 0#32
    | .busy => Config.anyWord s.freeCount
    | .done | .error => BitVec.ofNat 32 s.cur
  | _ => 0#32

/-- A register read: no side effect on the VBD (R35); the word goes back to the host. A free value is used once. -/
def readRegister (offset : Nat) (s : State) : State :=
  { s with
    readData := s.registerWord offset
    freeCount := if s.engine = .busy ∧ offset = 0x14 then s.freeCount + 1 else s.freeCount }

/-- A register write other than CTRL's: the operand registers take it in IDLE only; STATUS, CUR and the offsets from 0x18
ignore it (R28, R31 to R33, R182). -/
def writeRegister (offset : Nat) (value : Word) (s : State) : State :=
  match s.engine with
  | .idle =>
    match offset with
    | 0x08 => { s with vcount := value }
    | 0x0C => { s with vsize := value }
    | 0x10 => { s with inlen := value }
    | _ => s
  | .busy | .done | .error => s

/-- The access is not an aligned 32-bit word (R35, U6). -/
def partialAccess (width : AccessWidth) (offset : Nat) : Bool := decide (width ≠ .word ∨ offset % 4 ≠ 0)

/-- A host write of one byte of IN (R36, R50): refused while BUSY (U2). While the reset input is high IN is unspecified, so
the write leaves nothing (R220, R223, log 9). -/
def hostWriteIn (a : Nat) (v : Byte) (s : State) : Host.Outcome State Fault Refusal :=
  if s.engine = .busy then .refused .inWriteWhileBusy
  else if capacityHolds s.config.inCap (a + 1) then .next (if s.rst then s else s.writeIn a v)
  else .fault .inBeyondCapacity

/-- OUT holds nothing the host may rely on: in BUSY and in ERROR (R64, R183, U4). -/
def State.outUnspecified (s : State) : Bool := decide (s.engine = .busy ∨ s.engine = .error)

/-- A host read of one byte of OUT (R36, R50): in BUSY and ERROR any value (U4), else the cell. -/
def hostReadOut (a : Nat) (s : State) : Host.Outcome State Fault Refusal :=
  if capacityHolds s.config.outCap (a + 1) then
    if s.outUnspecified then
      .next { s with readData := (Config.anyByte s.freeCount).setWidth 32, freeCount := s.freeCount + 1 }
    else .next { s with readData := (s.cell .output a).setWidth 32 }
  else .fault .outBeyondCapacity

/-- The reset input (R220, R222): high puts the VBD in reset from any state; low leaves it in that state, ready. -/
def driveReset (level : Bool) (s : State) : State :=
  if level then resetState s else { s with rst := false }

/-- What the host reads after a status word (R227): with 0x002 the result `OUT[0 .. count-1]`, with any other word the
cursor. -/
def outcomeReads (count : Nat) (status : Word) : List HostOp :=
  if status = 0x002#32 then (List.range count).map .readOut else [.readReg .word 0x14]

/-- The host chooses its next accesses by the status word it has just read (R227). The VBD is not touched. -/
def chooseOutcome (count : Nat) (s : State) : State :=
  { s with pending := outcomeReads count s.readData ++ s.pending }

end Sys2Proof.Machine
end

