-- ==== Sys2Proof/Machine/Turn.lean ====
section
/-! DEFINITION. One turn of the engine and one access of the host. -/

namespace Sys2Proof.Machine

/-- Decode the bits at a position and run the element. A wrong tag is the exception `CorruptStream(BAD_TAG)` (R167). -/
def runBits (slot : Slot) (bits : Word) (s : State) : Host.Outcome State Fault Refusal :=
  match decode slot bits with
  | .ok i => exec i s
  | .error .badTag => .next (takeException .badTag s)

/-- Run the element the engine has before it. -/
def runElement (s : State) : Host.Outcome State Fault Refusal :=
  match s.presented with
  | .element slot bits => runBits slot bits s
  | .missing reason => .fault reason
  | .internal => .next s

/-- One turn of the engine. It does nothing unless BUSY (R210), and nothing in reset (R220). At a group the margin check
comes before the header byte is read (R134, R135). -/
def engineTurn (s : State) : Host.Outcome State Fault Refusal :=
  if s.rst = true ∨ s.engine ≠ .busy then .next s
  else
    match s.pos with
    | .operands => .next (checkOperands s)
    | .blockLoop => .next (enterBlock s)
    | .column => .next (enterColumn s)
    | .commit => commitBlock s
    | .group => if s.marginOk then runElement s else .next (takeException .tailMargin s)
    | .quiet | .tag | .snapshot | .selector _ | .packed | .code | .overflow | .raw | .residual => runElement s

/-- One access of the host, taken off the list already. Register writes are ignored in reset (R220); a write to CTRL is a
command (R29). `readOutcome`, `pass` and `await` are no accesses (log 2). -/
def hostAccess (op : HostOp) (s : State) : Host.Outcome State Fault Refusal :=
  match op with
  | .writeReg width offset value =>
    if partialAccess width offset then .refused .partialRegisterAccess
    else if s.rst then .next s
    else if offset = 0x00 then runBits .ctrl value s
    else .next (writeRegister offset value s)
  | .readReg width offset =>
    if partialAccess width offset then .refused .partialRegisterAccess else .next (readRegister offset s)
  | .writeIn a v => hostWriteIn a v s
  | .readOut a => hostReadOut a s
  | .readIn _ => .refused .hostReadOfIn
  | .writeOut _ _ => .refused .hostWriteOfOut
  | .readOutcome count => .next (chooseOutcome count s)
  | .setRst level => .next (driveReset level s)
  | .pass => engineTurn s
  | .await => .next s

/-- Whose turn it is (log 2): the host's next access, or the engine's when the host has none or lets it run. -/
def turn (s : State) : Host.Outcome State Fault Refusal :=
  match s.pending with
  | [] => engineTurn s
  | .await :: rest => if s.engine = .busy then engineTurn s else .next { s with pending := rest }
  | op :: rest => hostAccess op { s with pending := rest }

end Sys2Proof.Machine
end

