-- ==== Sys2Proof/Machine/Step.lean ====
section
/-! DEFINITION. The step of the machine, and a word placed where the step meets its next element. -/

namespace Sys2Proof.Machine

/-- One step: one turn of the engine or one access of the host. -/
def step (s : State) : Host.Outcome State Fault Refusal := turn s

/-- The state with an element's bits where the next step meets them (log 11): a command is the host's next access; a stream
element stands at its position of a decode under way (the tag in `IN[0]`, a residual in `COL[i]`, a code in the packed
byte). -/
def State.withFetchWord (s : State) (nbits w : Nat) : State :=
  match tableSlot nbits w with
  | some .ctrl => { s with rst := false, pending := .writeReg .word 0x00 (BitVec.ofNat 32 w) :: s.pending }
  | some .tag =>
    { s.writeIn 0 (BitVec.ofNat 8 w) with
      rst := false
      engine := .busy
      pos := .tag
      inlen := if s.inlen = 0#32 then 1#32 else s.inlen
      pending := [] }
  | some .residual =>
    { s.writeCol s.i (BitVec.ofNat 8 w) with rst := false, engine := .busy, pos := .residual, pending := [] }
  | some .selector =>
    { s with rst := false, engine := .busy, pos := .selector (BitVec.ofNat 2 w), pending := [] }
  | some .code4 =>
    { s with
      rst := false
      engine := .busy
      pos := .code
      form := .b4
      packed := packedByte4 (BitVec.ofNat 4 w) (BitVec.ofNat 4 w)
      pending := [] }
  | _ => s

end Sys2Proof.Machine
end

