-- ==== Sys2Proof/Machine/Listing.lean ====
section
/-! DEFINITION. The line notation for writing streams (R102, R103): each line yields bytes. It has no meaning of its own
(D22); the packed bytes depend on CODE_ORDER. -/

namespace Sys2Proof.Machine

/-- One code of a `GRP.B2` or `GRP.B4` line: a literal, or `!xx`, an escape with its overflow byte (R102). -/
inductive CodeItem where
  | lit (v : BitVec 4)
  | esc (overflow : Byte)
  deriving DecidableEq, Repr

/-- A line, or a pseudo-line that yields bytes (R102, R103). `START`, `CLEAR` and `SET` are host accesses, not lines. -/
inductive Line where
  | tag
  | db (bytes : List Byte)
  | hdr (s0 s1 s2 s3 : BitVec 2)
  | grpZ
  | grpB2 (codes : List CodeItem)
  | grpB4 (codes : List CodeItem)
  | grpB8 (bytes : List Byte)
  | pad (count : Nat)
  | snap (bytes : List Byte)
  | colz (groups : Nat)
  | tail (bytes : List Byte)
  deriving DecidableEq, Repr

/-- The code of an item: its value, or all ones (R102). -/
def CodeItem.code2 : CodeItem → BitVec 2
  | .lit v => v.setWidth 2
  | .esc _ => 3#2

/-- The code of an item: its value, or all ones (R102). -/
def CodeItem.code4 : CodeItem → BitVec 4
  | .lit v => v
  | .esc _ => 15#4

/-- The residual an item stands for (R93). -/
def CodeItem.residual : CodeItem → Byte
  | .lit v => v.setWidth 8
  | .esc v => v

/-- The overflow bytes of a group's items, in order (R90). -/
def overflowBytes : List CodeItem → List Byte
  | [] => []
  | .lit _ :: rest => overflowBytes rest
  | .esc v :: rest => v :: overflowBytes rest

/-- Four 2-bit codes a byte (R88). -/
def packCodes2 (order : CodeOrder) : List CodeItem → List Byte
  | a :: b :: c :: d :: rest =>
    (match order with
      | .msbFirst => packedByte2 a.code2 b.code2 c.code2 d.code2
      | .lsbFirst => packedByte2 d.code2 c.code2 b.code2 a.code2) :: packCodes2 order rest
  | _ => []

/-- Two 4-bit codes a byte (R89). -/
def packCodes4 (order : CodeOrder) : List CodeItem → List Byte
  | a :: b :: rest =>
    (match order with
      | .msbFirst => packedByte4 a.code4 b.code4
      | .lsbFirst => packedByte4 b.code4 a.code4) :: packCodes4 order rest
  | _ => []

/-- The bytes of a line (R102, R103). -/
def Line.bytes (order : CodeOrder) : Line → List Byte
  | .tag => [Config.tag]
  | .db bytes => bytes
  | .hdr s0 s1 s2 s3 => [s3 ++ s2 ++ s1 ++ s0]
  | .grpZ => []
  | .grpB2 codes => packCodes2 order codes ++ overflowBytes codes
  | .grpB4 codes => packCodes4 order codes ++ overflowBytes codes
  | .grpB8 bytes => bytes
  | .pad count => List.replicate count 0#8
  | .snap bytes => bytes
  | .colz groups => List.replicate (headerBytes groups) 0#8
  | .tail bytes => List.replicate (Config.tailMargin - bytes.length) 0#8 ++ bytes

/-- A stream is the concatenation of its lines (R102). -/
def assemble (order : CodeOrder) (lines : List Line) : List Byte := lines.flatMap (Line.bytes order)

end Sys2Proof.Machine
end

