-- ==== Sys2Proof/Machine/Protocol.lean ====
section
/-! DEFINITION. The host protocol for one decode (R226, R227): the sequence of accesses, and what the host gets back. -/

namespace Sys2Proof.Machine

/-- The host's accesses for one call, from IDLE (R226): load IN, write INLEN, VCOUNT and VSIZE, START, wait for the end of
BUSY, read STATUS, then the result or the cursor, and CLEAR. -/
def callAccesses (vcount vsize : Word) (bytes : List Byte) : List HostOp :=
  (bytes.zipIdx.map fun b => HostOp.writeIn b.2 b.1) ++
  [.writeReg .word 0x10 (BitVec.ofNat 32 bytes.length), .writeReg .word 0x08 vcount, .writeReg .word 0x0C vsize,
   .writeReg .word 0x00 1#32, .await, .readReg .word 0x04, .readOutcome (vcount.toNat * vsize.toNat),
   .writeReg .word 0x00 2#32]

/-- The whole protocol of R227, its leading reset included. -/
def decodeCall (vcount vsize : Word) (bytes : List Byte) : List HostOp :=
  [.setRst true, .setRst false] ++ callAccesses vcount vsize bytes

/-- The host's next access returns a word. -/
def State.hostReadsNext (s : State) : Bool :=
  match s.pending with
  | .readReg _ _ :: _ | .readOut _ :: _ => true
  | _ => false

/-- The words that host reads return over some number of steps, in order. -/
def hostReads : (count : Nat) → State → List Word
  | 0, _ => []
  | count + 1, s =>
    match step s with
    | .next t => if s.hostReadsNext then t.readData :: hostReads count t else hostReads count t
    | .fault _ | .refused _ => []

/-- What a call gives its caller (R227): the decoded bytes, or the class, the cause and the cursor of the error. -/
inductive CallResult where
  | result (bytes : List Byte)
  | error (err : BitVec 2) (cause : BitVec 4) (cur : Word)
  deriving DecidableEq, Repr

/-- The call's result from the words it read (R227): STATUS first; with 0x002 the bytes of OUT follow, else
`(s[5:4], s[11:8], read CUR)`. Nothing if a word is missing. -/
def callResult : List Word → Option CallResult
  | [] => none
  | status :: rest =>
    if status = 0x002#32 then some (.result (rest.map fun w => w.setWidth 8))
    else rest.head?.map fun cur => .error (status.extractLsb' 4 2) (status.extractLsb' 8 4) cur

end Sys2Proof.Machine
end

