-- ==== Sys2Proof/Machine/Decoder.lean ====
section
/-! DEFINITION. The decode as a function of the operands, the buffer and CODE_ORDER (R14): DecodeGroup, DecodeColumn,
DecodeBlock and DecodeStream as the pseudocode of R110 to R114, R133, R152 and R173 gives them, over `rd a = IN[a]`. The
engine of the step takes one step per element instead; both are the spec's decode. -/

namespace Sys2Proof.Machine

/-- The residuals `j .. j + count - 1` of a packed group, and the overflow cursor after them (the loops of R112, R113). -/
def decodeCodes (form : CodeForm) (order : CodeOrder) (rd : Nat → Byte) (a : Nat) : Nat → Nat → Nat → List Byte × Nat
  | 0, _, ov => ([], ov)
  | count + 1, j, ov =>
    let c := form.codeAt order (rd (a + j / form.perByte)) (j % form.perByte)
    if form.escapes c then
      let r := decodeCodes form order rd a count (j + 1) (ov + 1)
      (rd ov :: r.1, r.2)
    else
      let r := decodeCodes form order rd a count (j + 1) ov
      (c :: r.1, r.2)

/-- `DecodeGroup(a, sel) -> (res, a')` (R110 to R114). -/
def decodeGroup (order : CodeOrder) (rd : Nat → Byte) (a : Nat) (sel : BitVec 2) : List Byte × Nat :=
  match sel.toNat with
  | 0 => (List.replicate Config.group 0#8, a)
  | 1 => decodeCodes .b2 order rd a Config.group 0 (a + 4)
  | 2 => decodeCodes .b4 order rd a Config.group 0 (a + 8)
  | _ => ((List.range Config.group).map fun j => rd (a + j), a + Config.group)

/-- `(IN[hdr + (g div 4)] >> ((g mod 4) * 2)) & 3` (R132). -/
def selectorAt (rd : Nat → Byte) (hdr g : Nat) : BitVec 2 := (rd (hdr + g / 4) >>> (g % 4 * 2)).setWidth 2

/-- What a decode, or a part of it, ends in: a value, or the cause raised and the cursor recorded (R202). -/
inductive Decoded (α : Type) where
  | value (a : α)
  | raised (cause : Cause) (cur : Nat)
  deriving DecidableEq, Repr

/-- The groups `g .. g + count - 1` of a column, from cursor `cur` (the loop of R133). -/
def decodeGroups (order : CodeOrder) (rd : Nat → Byte) (inlen hdr : Nat) :
    Nat → Nat → Nat → Decoded (List Byte × Nat)
  | 0, _, cur => .value ([], cur)
  | count + 1, g, cur =>
    if inlen < cur ∨ inlen - cur < Config.tailMargin then .raised .tailMargin cur
    else
      let r := decodeGroup order rd cur (selectorAt rd hdr g)
      match decodeGroups order rd inlen hdr count (g + 1) r.2 with
      | .value (rs, cur') => .value (r.1 ++ rs, cur')
      | .raised cause cur' => .raised cause cur'

/-- `DecodeColumn(a, n)` (R130, R133). -/
def decodeColumn (order : CodeOrder) (rd : Nat → Byte) (inlen a n : Nat) : Decoded (List Byte × Nat) :=
  decodeGroups order rd inlen a (n / Config.group) 0 (a + headerBytes (n / Config.group))

/-- The predictor chain of a column (R149, R152): the values from predictor `p` and the residuals. -/
def deltaChain (p : Byte) : List Byte → List Byte
  | [] => []
  | r :: rs => (unzigzag r + p) :: deltaChain (unzigzag r + p) rs

/-- The columns of a block from cursor `cur`, one for each predictor in `lastv` (R152). -/
def decodeColumns (order : CodeOrder) (rd : Nat → Byte) (inlen bcount : Nat) :
    List Byte → Nat → Decoded (List (List Byte) × Nat)
  | [], cur => .value ([], cur)
  | p :: ps, cur =>
    match decodeColumn order rd inlen cur (roundUp bcount Config.group) with
    | .raised cause cur' => .raised cause cur'
    | .value (rs, cur') =>
      match decodeColumns order rd inlen bcount ps cur' with
      | .raised cause cur'' => .raised cause cur''
      | .value (cs, cur'') => .value (deltaChain p (rs.take bcount) :: cs, cur'')

/-- Byte `k` of vertex `i` of a block, from its columns (R154). -/
def columnByte (columns : List (List Byte)) (i k : Nat) : Byte := (columns.getD k []).getD i 0#8

/-- The rows of a block: `BLK[i * VSIZE + k]` is value `i` of column `k` (R154). -/
def rowMajor (columns : List (List Byte)) (vsize bcount : Nat) : List Byte :=
  (List.range (bcount * vsize)).map fun x => columnByte columns (x / vsize) (x % vsize)

/-- `DecodeBlock(bcount)` (R145, R158): the block's bytes, the new LASTV and the cursor. -/
def decodeBlock (order : CodeOrder) (rd : Nat → Byte) (inlen bcount : Nat) (lastv : List Byte) (cur : Nat) :
    Decoded (List Byte × List Byte × Nat) :=
  if bcount < 1 ∨ Config.blockMax < bcount then .raised .blockCount cur
  else
    match decodeColumns order rd inlen bcount lastv cur with
    | .raised cause cur' => .raised cause cur'
    | .value (cs, cur') =>
      .value (rowMajor cs lastv.length bcount,
        (List.range lastv.length).map (fun k => columnByte cs (bcount - 1) k), cur')

/-- The block loop (R172) over the remaining vertices; `fuel` bounds the number of blocks. -/
def decodeBlocks (order : CodeOrder) (rd : Nat → Byte) (inlen bsize : Nat) :
    Nat → Nat → List Byte → Nat → Decoded (List Byte × Nat)
  | 0, _, _, cur => .value ([], cur)
  | fuel + 1, remaining, lastv, cur =>
    if remaining = 0 then .value ([], cur)
    else
      match decodeBlock order rd inlen (min bsize remaining) lastv cur with
      | .raised cause cur' => .raised cause cur'
      | .value (bytes, lastv', cur') =>
        match decodeBlocks order rd inlen bsize fuel (remaining - min bsize remaining) lastv' cur' with
        | .raised cause cur'' => .raised cause cur''
        | .value (rest, cur'') => .value (bytes ++ rest, cur'')

/-- `DecodeStream()` (R173): the decoded vertex stream and the final cursor, or the cause raised and its cursor. -/
def decodeStream (order : CodeOrder) (vcount vsize inlen : Nat) (rd : Nat → Byte) : Decoded (List Byte × Nat) :=
  if vsize < 1 ∨ Config.vsizeMax < vsize then .raised .vsizeRange 0
  else if vsize % 4 ≠ 0 then .raised .vsizeAlign 0
  else if inlen < 1 + vsize then .raised .shortBuffer 0
  else if rd 0 ≠ Config.tag then .raised .badTag 0
  else
    decodeBlocks order rd inlen (blockSize vsize) vcount vcount
      ((List.range vsize).map fun k => rd (inlen - vsize + k)) 1

end Sys2Proof.Machine
end

