-- ==== Sys2Proof/Machine/Vectorised.lean ====
section
/-! DEFINITION. The vectorised group decoder (R120 to R124): no part of the machine (log 13), a second way to compute
DecodeGroup, lane by lane as R121 describes it, with the two constant tables of R122. -/

namespace Sys2Proof.Machine

/-- `CNT[mask]`: number of 1 bits of an escape mask (R122). -/
def escapeCount (mask : BitVec 8) : Nat := ((List.range 8).filter fun i => mask.getLsbD i).length

/-- `SHUF[mask][i]`: which overflow byte lane `i` takes; `none` for a lane that takes no byte (R122). -/
def shuffleIndex (mask : BitVec 8) (i : Nat) : Option Nat :=
  if mask.getLsbD i then some ((List.range i).filter fun t => mask.getLsbD t).length else none

/-- The bits of a mask, lane 0 lowest. -/
def maskOfLanes : List Bool → Nat
  | [] => 0
  | b :: bs => b.toNat + 2 * maskOfLanes bs

/-- Step 1 of R121: lane `j` holds `zext_8(c[j])`. -/
def codeLanes (form : CodeForm) (order : CodeOrder) (rd : Nat → Byte) (a : Nat) : List Byte :=
  (List.range Config.group).map fun j => form.codeAt order (rd (a + j / form.perByte)) (j % form.perByte)

/-- Step 2 of R121: the escape mask of eight lanes. -/
def laneMask (form : CodeForm) (lanes : List Byte) : BitVec 8 := BitVec.ofNat 8 (maskOfLanes (lanes.map form.escapes))

/-- Steps 4 to 6 of R121 for one half: an escaped lane takes the overflow byte its index selects, at `offset` in the
overflow bytes; the others keep their literal. -/
def blendHalf (rd : Nat → Byte) (ov offset : Nat) (mask : BitVec 8) (lanes : List Byte) : List Byte :=
  lanes.zipIdx.map fun l =>
    match shuffleIndex mask l.2 with
    | some t => rd (ov + (offset + t))
    | none => l.1

/-- Steps 1 to 7 of R121 for a packed group. -/
def vectorCodes (form : CodeForm) (order : CodeOrder) (rd : Nat → Byte) (a : Nat) : List Byte × Nat :=
  let lanes := codeLanes form order rd a
  let mask0 := laneMask form (lanes.take 8)
  let mask1 := laneMask form (lanes.drop 8)
  let ov := a + form.packedBytes
  (blendHalf rd ov 0 mask0 (lanes.take 8) ++ blendHalf rd ov (escapeCount mask0) mask1 (lanes.drop 8),
    ov + escapeCount mask0 + escapeCount mask1)

/-- The vectorised `DecodeGroup` (R121). -/
def decodeGroupVectorised (order : CodeOrder) (rd : Nat → Byte) (a : Nat) (sel : BitVec 2) : List Byte × Nat :=
  match sel.toNat with
  | 0 => (List.replicate Config.group 0#8, a)
  | 1 => vectorCodes .b2 order rd a
  | 2 => vectorCodes .b4 order rd a
  | _ => ((List.range Config.group).map fun j => rd (a + j), a + Config.group)

end Sys2Proof.Machine
end

