-- ==== Sys2Proof/Safety.lean ====
section
/-! DEFINITION. The terms claims are made in: what stays the same over a step, what an element does to the engine's place,
and the invariant of the machine. -/

namespace Sys2Proof.Machine

/-! ### What stays the same -/

/-- The operand registers, the parameters, the reset input and the host's own fields are the same. -/
def SameOperands (s t : State) : Prop :=
  t.vcount = s.vcount ∧ t.vsize = s.vsize ∧ t.inlen = s.inlen ∧ t.config = s.config ∧ t.rst = s.rst ∧
  t.pending = s.pending ∧ t.readData = s.readData ∧ t.freeCount = s.freeCount

/-- STATE, ERR and CAUSE are the same. -/
def SameStatus (s t : State) : Prop := t.engine = s.engine ∧ t.err = s.err ∧ t.cause = s.cause

/-- The counters of R25 that stay over a column are the same. -/
def SameBlock (s t : State) : Prop :=
  t.voff = s.voff ∧ t.bsize = s.bsize ∧ t.bcount = s.bcount ∧ t.n = s.n ∧ t.hdr = s.hdr

/-- Every byte of an array or buffer reads as before. -/
def SameCells (bank : Bank) (s t : State) : Prop := ∀ a, t.cell bank a = s.cell bank a

/-- Every byte of an array or buffer outside `[a, a + count)` reads as before. -/
def SameCellsOutside (bank : Bank) (a count : Nat) (s t : State) : Prop :=
  ∀ x, (x < a ∨ a + count ≤ x) → t.cell bank x = s.cell bank x

/-- Nothing the host can reach is touched: operands, status, and every byte of IN and OUT. -/
def SameOutside (s t : State) : Prop :=
  SameOperands s t ∧ SameStatus s t ∧ SameCells .input s t ∧ SameCells .output s t

/-- What every element of a group leaves alone: all of the above, the block's counters, the column number, LASTV and
BLK. -/
def SameInGroup (s t : State) : Prop :=
  SameOutside s t ∧ SameBlock s t ∧ t.k = s.k ∧ SameCells .lastv s t ∧ SameCells .blk s t

/-! ### Where the engine goes -/

/-- A group has ended at address `a'` (R133): the cursor stands there, and the engine is at the next group of the column, or
at vertex 0 of the column's delta pass with the predictor `LASTV[k]` (R152). -/
def AfterGroup (a' : Nat) (s t : State) : Prop :=
  t.cur = a' ∧ t.j = s.j ∧
  (s.g + 1 < s.n / 16 → t.g = s.g + 1 ∧ t.pos = .group ∧ t.i = s.i ∧ t.p = s.p) ∧
  (¬ s.g + 1 < s.n / 16 → t.g = s.g ∧ t.pos = .residual ∧ t.i = 0 ∧ t.p = s.cell .lastv s.k)

/-- Residual `j` of a packed group is done, and the overflow cursor now is `ov` (R112, R113): the next code, the next packed
byte, or the end of the group at `ov`. -/
def AfterResidual (form : CodeForm) (ov : Nat) (s t : State) : Prop :=
  t.ov = ov ∧
  (s.j + 1 < 16 → t.j = s.j + 1 ∧ t.cur = s.cur ∧ t.g = s.g ∧ t.i = s.i ∧ t.p = s.p ∧
    t.pos = if (s.j + 1) % form.perByte = 0 then .packed else .code) ∧
  (¬ s.j + 1 < 16 → AfterGroup ov s t)

/-- Residual `v` is stored in `COL[16g + j]` and nowhere else (R133). -/
def StoresResidual (v : Byte) (s t : State) : Prop :=
  t.cell .col (16 * s.g + s.j) = v ∧ SameCellsOutside .col (16 * s.g + s.j) 1 s t

/-- One step of the delta pass with delta `d` (R148, R152, R154): `v = d +8 p` is stored in `BLK[i * VSIZE + k]` and nowhere
else, and is the next predictor; then the next vertex, the next column, or the commit. -/
def StepsDelta (d : Byte) (s t : State) : Prop :=
  t.cell .blk (s.i * s.vsize.toNat + s.k) = d + s.p ∧
  SameCellsOutside .blk (s.i * s.vsize.toNat + s.k) 1 s t ∧ t.p = d + s.p ∧
  (s.i + 1 < s.bcount → t.i = s.i + 1 ∧ t.k = s.k ∧ t.pos = s.pos) ∧
  (¬ s.i + 1 < s.bcount → s.k + 1 < s.vsize.toNat → t.i = s.i ∧ t.k = s.k + 1 ∧ t.pos = .column) ∧
  (¬ s.i + 1 < s.bcount → ¬ s.k + 1 < s.vsize.toNat → t.i = s.i ∧ t.k = s.k ∧ t.pos = .commit)

/-- The variables of the group loops are the same. -/
def SameCodeLoop (s t : State) : Prop :=
  t.form = s.form ∧ t.packed = s.packed ∧ t.j = s.j ∧ t.ov = s.ov ∧ t.g = s.g

/-- The literal codes (R115), each with its size and the residual it stands for. -/
def literalCodes : List (Instr × CodeForm × Byte) :=
  [(.c2Lit0, .b2, 0#8), (.c2Lit1, .b2, 1#8), (.c2Lit2, .b2, 2#8),
   (.c4Lit0, .b4, 0#8), (.c4Lit1, .b4, 1#8), (.c4Lit2, .b4, 2#8), (.c4Lit3, .b4, 3#8), (.c4Lit4, .b4, 4#8),
   (.c4Lit5, .b4, 5#8), (.c4Lit6, .b4, 6#8), (.c4Lit7, .b4, 7#8), (.c4Lit8, .b4, 8#8), (.c4Lit9, .b4, 9#8),
   (.c4Lit10, .b4, 10#8), (.c4Lit11, .b4, 11#8), (.c4Lit12, .b4, 12#8), (.c4Lit13, .b4, 13#8),
   (.c4Lit14, .b4, 14#8)]

/-! ### Groups as functions of the input -/

/-- The selector of a packed form (R85). -/
def CodeForm.selector : CodeForm → BitVec 2
  | .b2 => 1#2
  | .b4 => 2#2

/-- Code `j` of a packed group at `a` (R88, R89, R112, R113). -/
def codeOf (form : CodeForm) (order : CodeOrder) (rd : Nat → Byte) (a j : Nat) : Byte :=
  form.codeAt order (rd (a + j / form.perByte)) (j % form.perByte)

/-- The number of escapes among codes `0 .. j-1` of a packed group (R116). -/
def escapesBefore (form : CodeForm) (order : CodeOrder) (rd : Nat → Byte) (a j : Nat) : Nat :=
  ((List.range j).filter fun t => form.escapes (codeOf form order rd a t)).length

/-! ### The invariant -/

/-- The five arrays and buffers are in canonical form. -/
def Canonical (s : State) : Prop := ∀ bank, (s.bank bank).wf = true

/-- Only cells that exist are listed (R21 to R23, R36). -/
def CellsExist (s : State) : Prop :=
  s.lastv.below 256 ∧ s.col.below 256 ∧ s.blk.below 8192 ∧
  (∀ c ∈ s.inBuf, capacityHolds s.config.inCap (c.1 + 1) = true) ∧
  (∀ c ∈ s.outBuf, capacityHolds s.config.outCap (c.1 + 1) = true)

/-- The invariants of STATUS (R30): ERR is non-zero exactly in ERROR, and CAUSE belongs to the class ERR names. -/
def StatusConsistent (s : State) : Prop :=
  (s.err ≠ .none ↔ s.engine = .error) ∧ s.err = s.cause.errClass

/-- The operands passed the checks of R165 and R166. -/
def OperandsChecked (s : State) : Prop :=
  4 ≤ s.vsize.toNat ∧ s.vsize.toNat ≤ 256 ∧ s.vsize.toNat % 4 = 0 ∧ 1 + s.vsize.toNat ≤ s.inlen.toNat

/-- A column may begin at the cursor (R24): the first stands at 1, every later one where a checked group ended. -/
def ColumnStart (s : State) : Prop := s.cur = 1 ∨ s.cur + 8 ≤ s.inlen.toNat

/-- The block under way (R151, R170, R172): its counters are the ones the block loop computed. -/
def InBlock (s : State) : Prop :=
  OperandsChecked s ∧ s.bsize = blockSize s.vsize.toNat ∧ s.voff < s.vcount.toNat ∧ s.bcount = s.nextBlockCount ∧
  s.n = roundUp s.bcount 16 ∧ s.k < s.vsize.toNat

/-- The column under way (R25, R131, R136): group `g` is one of the column's, and the header region lies below the
cursor. -/
def InColumn (s : State) : Prop :=
  InBlock s ∧ s.g < s.n / 16 ∧ s.hdr + headerBytes (s.n / 16) ≤ s.cur

/-- A group that passed the margin check is under way (R134). -/
def InGroup (s : State) : Prop := InColumn s ∧ s.cur + 32 ≤ s.inlen.toNat

/-- A packed group is at residual `j`; at most `j` overflow bytes are consumed (R112, R113). -/
def InPacked (s : State) : Prop :=
  InGroup s ∧ s.j < 16 ∧ s.cur + s.form.packedBytes ≤ s.ov ∧ s.ov ≤ s.cur + s.form.packedBytes + s.j

/-- What holds of the cursor and the counters at each place of a decode (R24, R25, R136). -/
def DecodePlace (s : State) : Prop :=
  match s.pos with
  | .quiet => False
  | .operands => s.cur = 0
  | .tag => OperandsChecked s ∧ s.cur = 0
  | .snapshot => OperandsChecked s ∧ s.cur = 1 ∧ s.k < s.vsize.toNat
  | .blockLoop =>
    OperandsChecked s ∧ s.bsize = blockSize s.vsize.toNat ∧ s.voff ≤ s.vcount.toNat ∧ ColumnStart s
  | .column => InBlock s ∧ ColumnStart s
  | .group => InColumn s ∧ s.cur ≤ s.inlen.toNat
  | .selector _ => InGroup s
  | .packed => InPacked s ∧ s.j % s.form.perByte = 0
  | .code => InPacked s
  | .overflow => InPacked s
  | .raw => InGroup s ∧ s.j < 16
  | .residual => InBlock s ∧ s.i < s.bcount ∧ s.cur + 8 ≤ s.inlen.toNat
  | .commit => InBlock s ∧ s.cur + 8 ≤ s.inlen.toNat

/-- The invariant of the machine: canonical memory in cells that exist, the invariants of STATUS, `cur = 0` in IDLE (R34,
R39), the reset values while the reset input is high (R220), a decode under way exactly while BUSY, with operands inside
the capacities and at a place of the pseudocode. -/
def Inv (s : State) : Prop :=
  Canonical s ∧ CellsExist s ∧ StatusConsistent s ∧
  (s.engine = .idle → s.cur = 0) ∧
  (s.rst = true → s.engine = .idle ∧ s.vcount = 0#32 ∧ s.vsize = 0#32 ∧ s.inlen = 0#32) ∧
  (s.engine ≠ .busy → s.pos = .quiet) ∧
  (s.engine = .busy → s.capacitiesHold = true ∧ DecodePlace s)

/-! ### Runs -/

/-- A decode under way with no host access to come: the engine has every turn. -/
def Running (s : State) : Prop := s.engine = .busy ∧ s.rst = false ∧ s.pending = []

/-- Some number of steps leads from `s` to `t`. -/
def Reaches (s t : State) : Prop := ∃ count, core.run count s = .next t

end Sys2Proof.Machine
end

