-- ==== Sys2Proof/Certificates/Slice0/Obligations.lean ====
section
/-! DEFINITION. The statements for the provers. OBLIGATIONS.json gives each its title, its tier and the rules it formalises. -/

open Sys2Proof Sys2Proof.Machine

/-! ### Encoding -/

/-- R97: an element decodes to itself at the position where it is well-formed, with every operand at every value. -/
def Obligations.DecodeOfEncode : Prop :=
  ∀ (i : Instr) (p : Slot), i.wellFormedAt p = true → decode p (encode i) = .ok i

/-- No bit of an element is dropped: what the decoder reads at a position encodes back to the position's bits. -/
def Obligations.EncodeOfDecode : Prop :=
  ∀ (p : Slot) (w : Word) (i : Instr), decode p w = .ok i →
    i.wellFormedAt p = true ∧ encode i = BitVec.ofNat 32 (w.toNat % 2 ^ p.width)

/-- R98, R99: the one illegal encoding is a tag byte other than 0xA0. -/
def Obligations.DecodeRefusesOnlyWrongTag : Prop :=
  ∀ (p : Slot) (w : Word) (e : Reject),
    decode p w = .error e ↔ e = .badTag ∧ p = .tag ∧ w.setWidth 8 ≠ 0xA0#8

/-- Words written out from the patterns of R97, one or more for each format. -/
def Obligations.SampleWordsDecode : Prop :=
  decode .tag 0b10100000#32 = .ok .tag ∧
  decode .header 0b11100100#32 = .ok (.hdr 0#2 1#2 2#2 3#2) ∧
  decode .selector 0b10#32 = .ok .grpB4 ∧
  decode .pack2 0b00011011#32 = .ok (.pack2 0#2 1#2 2#2 3#2) ∧
  decode .pack4 0b00001111#32 = .ok (.pack4 0#4 15#4) ∧
  decode .code2 0b11#32 = .ok .c2Esc ∧
  decode .code4 0b1110#32 = .ok .c4Lit14 ∧
  decode .overflow 0b01111111#32 = .ok (.ovf 0x7F#8) ∧
  decode .residual 0b11111110#32 = .ok (.zzPos 127#7) ∧
  decode .residual 0b00000001#32 = .ok (.zzNeg 0#7) ∧
  decode .ctrl 0b11111111111111111111111111111101#32 = .ok (.cmdStart (BitVec.allOnes 30)) ∧
  decode .ctrl 0b00000000000000000000000000000010#32 = .ok (.cmdClear 0#30)

/-! ### The step -/

/-- R97, R173: the engine's turn runs the element it has before it: the step is `exec` of the decoded element. -/
def Obligations.StepRunsElement : Prop :=
  ∀ (s : State) (slot : Slot) (bits : Word) (i : Instr), Running s → (s.pos = .group → s.marginOk = true) →
    s.presented = .element slot bits → decode slot bits = .ok i → step s = exec i s

/-- R29, R182: a write to CTRL runs the command its bits 1:0 select; the access is taken off the host's list. -/
def Obligations.StepRunsCommand : Prop :=
  ∀ (s : State) (v : Word) (rest : List HostOp), s.pending = .writeReg .word 0x00 v :: rest → s.rst = false →
    ∃ i, decode .ctrl v = .ok i ∧ i.wellFormedAt .ctrl = true ∧ step s = exec i { s with pending := rest }

/-- R58, R132, R167, R168, R112 to R116: where in IN, in the packed byte or in COL the bits of each element are. -/
def Obligations.ElementsStandWhereTheRulesSay : Prop :=
  ∀ (s : State), s.capacitiesHold = true →
    let at' := fun (slot : Slot) (a : Nat) => Presented.element slot ((s.cell .input a).setWidth 32)
    (s.pos = .tag → 0 < s.inlen.toNat → s.presented = at' .tag 0) ∧
    (s.pos = .snapshot → s.vsize.toNat ≤ s.inlen.toNat → s.k < s.vsize.toNat →
      s.presented = at' .snapshot (s.inlen.toNat - s.vsize.toNat + s.k)) ∧
    (s.pos = .group → s.hdr + s.g / 4 < s.inlen.toNat → s.presented = at' .header (s.hdr + s.g / 4)) ∧
    (∀ sel, s.pos = .selector sel → s.presented = .element .selector (sel.setWidth 32)) ∧
    (s.pos = .packed → s.form = .b2 → s.cur + s.j / 4 < s.inlen.toNat →
      s.presented = at' .pack2 (s.cur + s.j / 4)) ∧
    (s.pos = .packed → s.form = .b4 → s.cur + s.j / 2 < s.inlen.toNat →
      s.presented = at' .pack4 (s.cur + s.j / 2)) ∧
    (s.pos = .code → s.form = .b2 →
      s.presented = .element .code2 ((code2 s.config.codeOrder s.packed (s.j % 4)).setWidth 32)) ∧
    (s.pos = .code → s.form = .b4 →
      s.presented = .element .code4 ((code4 s.config.codeOrder s.packed (s.j % 2)).setWidth 32)) ∧
    (s.pos = .overflow → s.ov < s.inlen.toNat → s.presented = at' .overflow s.ov) ∧
    (s.pos = .raw → s.cur + s.j < s.inlen.toNat → s.presented = at' .raw (s.cur + s.j)) ∧
    (s.pos = .residual → s.presented = .element .residual ((s.cell .col s.i).setWidth 32))

/-! ### The group decoder -/

/-- R111, `GRP.Z`: sixteen zero residuals, whatever the bytes at the cursor; the cursor does not move. -/
def Obligations.ZeroGroup : Prop :=
  ∀ (s : State), ∃ t, exec .grpZ s = .next t ∧
    (∀ x, x < 16 → t.cell .col (16 * s.g + x) = 0#8) ∧ SameCellsOutside .col (16 * s.g) 16 s t ∧
    AfterGroup s.cur s t ∧ SameInGroup s t ∧ t.form = s.form ∧ t.packed = s.packed ∧ t.ov = s.ov

/-- R112, R113, `GRP.B2` and `GRP.B4`: a group of packed codes begins at the cursor, its overflow bytes 4 or 8 bytes on. -/
def Obligations.PackedGroupBegins : Prop :=
  ∀ (s : State) (form : CodeForm), ∃ t,
    exec (match form with | .b2 => .grpB2 | .b4 => .grpB4) s = .next t ∧
    t.pos = .packed ∧ t.form = form ∧ t.j = 0 ∧ t.ov = s.cur + (match form with | .b2 => 4 | .b4 => 8) ∧
    t.cur = s.cur ∧ t.g = s.g ∧ t.i = s.i ∧ t.p = s.p ∧ t.packed = s.packed ∧ SameInGroup s t ∧
    SameCells .col s t

/-- R114, `GRP.B8`: sixteen raw bytes follow at the cursor. -/
def Obligations.RawGroupBegins : Prop :=
  ∀ (s : State), ∃ t, exec .grpB8 s = .next t ∧
    t.pos = .raw ∧ t.j = 0 ∧ t.cur = s.cur ∧ t.g = s.g ∧ t.i = s.i ∧ t.p = s.p ∧ t.form = s.form ∧
    t.packed = s.packed ∧ t.ov = s.ov ∧ SameInGroup s t ∧ SameCells .col s t

/-- R88, R89, `PACK2` and `PACK4`: the byte is latched; under MSB_FIRST its fields are the codes in order, `a` first, under
LSB_FIRST in the opposite order. -/
def Obligations.PackedBytesHoldTheirCodes : Prop :=
  (∀ (s : State) (a b c d : BitVec 2), ∃ t, exec (.pack2 a b c d) s = .next t ∧
    t.pos = .code ∧ t.form = .b2 ∧
    code2 .msbFirst t.packed 0 = a ∧ code2 .msbFirst t.packed 1 = b ∧
    code2 .msbFirst t.packed 2 = c ∧ code2 .msbFirst t.packed 3 = d ∧
    code2 .lsbFirst t.packed 0 = d ∧ code2 .lsbFirst t.packed 1 = c ∧
    code2 .lsbFirst t.packed 2 = b ∧ code2 .lsbFirst t.packed 3 = a ∧
    t.j = s.j ∧ t.ov = s.ov ∧ t.cur = s.cur ∧ t.g = s.g ∧ t.i = s.i ∧ t.p = s.p ∧ SameInGroup s t ∧
    SameCells .col s t) ∧
  (∀ (s : State) (a b : BitVec 4), ∃ t, exec (.pack4 a b) s = .next t ∧
    t.pos = .code ∧ t.form = .b4 ∧
    code4 .msbFirst t.packed 0 = a ∧ code4 .msbFirst t.packed 1 = b ∧
    code4 .lsbFirst t.packed 0 = b ∧ code4 .lsbFirst t.packed 1 = a ∧
    t.j = s.j ∧ t.ov = s.ov ∧ t.cur = s.cur ∧ t.g = s.g ∧ t.i = s.i ∧ t.p = s.p ∧ SameInGroup s t ∧
    SameCells .col s t)

/-- R93, R115, `C2.LIT0` to `C2.LIT2` and `C4.LIT0` to `C4.LIT14`: the residual is the code's own value; no overflow byte is
taken. -/
def Obligations.LiteralCodesStoreTheirValue : Prop :=
  ∀ (s : State) (c : Instr × CodeForm × Byte), c ∈ literalCodes → ∃ t, exec c.1 s = .next t ∧
    StoresResidual c.2.2 s t ∧ AfterResidual c.2.1 s.ov s t ∧ SameInGroup s t ∧ t.form = s.form ∧
    t.packed = s.packed

/-- R115, `C2.ESC` and `C4.ESC`: an overflow byte is met next; nothing is stored yet. -/
def Obligations.EscapeCodesWaitForOverflow : Prop :=
  ∀ (s : State) (form : CodeForm), ∃ t, exec (match form with | .b2 => .c2Esc | .b4 => .c4Esc) s = .next t ∧
    t.pos = .overflow ∧ t.form = form ∧ t.packed = s.packed ∧ t.j = s.j ∧ t.ov = s.ov ∧ t.cur = s.cur ∧
    t.g = s.g ∧ t.i = s.i ∧ t.p = s.p ∧ SameInGroup s t ∧ SameCells .col s t

/-- R115, R116, `OVF`: the byte is the residual, verbatim, and exactly one overflow byte is consumed. -/
def Obligations.OverflowByteIsTheResidual : Prop :=
  ∀ (s : State) (v : Byte), ∃ t, exec (.ovf v) s = .next t ∧
    StoresResidual v s t ∧ AfterResidual s.form (s.ov + 1) s t ∧ SameInGroup s t ∧ t.form = s.form ∧
    t.packed = s.packed

/-- R114, `RAW`: the byte is the residual; after the sixteenth the group ends at `cur + 16`. -/
def Obligations.RawByteIsTheResidual : Prop :=
  ∀ (s : State) (v : Byte), ∃ t, exec (.raw v) s = .next t ∧
    StoresResidual v s t ∧
    (s.j + 1 < 16 → t.j = s.j + 1 ∧ t.cur = s.cur ∧ t.g = s.g ∧ t.i = s.i ∧ t.p = s.p ∧ t.pos = s.pos) ∧
    (¬ s.j + 1 < 16 → AfterGroup (s.cur + 16) s t) ∧
    SameInGroup s t ∧ t.form = s.form ∧ t.packed = s.packed ∧ t.ov = s.ov

/-- R117: what a group consumes, and that it depends on the 24 bytes from its start only. -/
def Obligations.GroupConsumption : Prop :=
  ∀ (order : CodeOrder) (rd : Nat → Byte) (a : Nat) (sel : BitVec 2),
    (decodeGroup order rd a sel).1.length = 16 ∧
    (sel = 0#2 → (decodeGroup order rd a sel).2 = a) ∧
    (sel = 1#2 → (decodeGroup order rd a sel).2 = a + 4 + escapesBefore .b2 order rd a 16) ∧
    (sel = 2#2 → (decodeGroup order rd a sel).2 = a + 8 + escapesBefore .b4 order rd a 16) ∧
    (sel = 3#2 → (decodeGroup order rd a sel).2 = a + 16) ∧
    (∀ form, escapesBefore form order rd a 16 ≤ 16) ∧
    a ≤ (decodeGroup order rd a sel).2 ∧ (decodeGroup order rd a sel).2 ≤ a + 24 ∧
    (∀ inlen, a + 32 ≤ inlen → (decodeGroup order rd a sel).2 ≤ inlen - 8) ∧
    (∀ rd' : Nat → Byte, (∀ x, a ≤ x → x < a + 24 → rd' x = rd x) →
      decodeGroup order rd' a sel = decodeGroup order rd a sel)

/-- R116: the residual of an escape is the overflow byte whose index is the number of escapes before it; the residual of any
other code is the code. -/
def Obligations.OverflowBytesInCodeOrder : Prop :=
  ∀ (form : CodeForm) (order : CodeOrder) (rd : Nat → Byte) (a j : Nat), j < 16 →
    (decodeGroup order rd a form.selector).1[j]? =
      some (if form.escapes (codeOf form order rd a j)
        then rd (a + form.packedBytes + escapesBefore form order rd a j)
        else codeOf form order rd a j)

/-- R124: the vectorised group decoder and the scalar one give the same residuals and the same end address. -/
def Obligations.VectorisedEqualsScalar : Prop :=
  ∀ (order : CodeOrder) (rd : Nat → Byte) (a : Nat) (sel : BitVec 2),
    decodeGroupVectorised order rd a sel = decodeGroup order rd a sel

/-- R102: a `GRP.B2` or `GRP.B4` line, assembled at an address, decodes to the residuals its items stand for, and the group
ends where the line's bytes end. -/
def Obligations.AssembledGroupDecodes : Prop :=
  ∀ (form : CodeForm) (order : CodeOrder) (rd : Nat → Byte) (a : Nat) (items : List CodeItem),
    let bytes := (match form with | .b2 => Line.grpB2 items | .b4 => Line.grpB4 items).bytes order
    items.length = 16 →
    (∀ v, CodeItem.lit v ∈ items → v.toNat < (match form with | .b2 => 3 | .b4 => 15)) →
    (∀ x (h : x < bytes.length), rd (a + x) = bytes[x]) →
    decodeGroup order rd a form.selector = (items.map CodeItem.residual, a + bytes.length)

/-- R110 to R114: from a selector, the engine stores the sixteen residuals of `DecodeGroup` in the group's cells of COL and
ends the group at the address `DecodeGroup` gives. -/
def Obligations.EngineDecodesGroup : Prop :=
  ∀ (s : State) (sel : BitVec 2), Inv s → Running s → s.pos = .selector sel →
    ∃ t, Reaches s t ∧ Running t ∧
      (∀ x, x < 16 → some (t.cell .col (16 * s.g + x)) =
        (decodeGroup s.config.codeOrder (s.cell .input) s.cur sel).1[x]?) ∧
      SameCellsOutside .col (16 * s.g) 16 s t ∧ SameInGroup s t ∧
      t.cur = (decodeGroup s.config.codeOrder (s.cell .input) s.cur sel).2 ∧
      (s.g + 1 < s.n / 16 → t.g = s.g + 1 ∧ t.pos = .group) ∧
      (¬ s.g + 1 < s.n / 16 → t.g = s.g ∧ t.pos = .residual ∧ t.i = 0 ∧ t.p = s.cell .lastv s.k)

/-! ### The byte-plane decoder -/

/-- R84, R132, `HDR`: the selector of group `g` is the 2-bit field at bit `(g mod 4) * 2` of its header byte. -/
def Obligations.HeaderByteSelects : Prop :=
  ∀ (s : State) (a b c d : BitVec 2),
    exec (.hdr a b c d) s =
      .next { s with pos := .selector (((d ++ c ++ b ++ a : BitVec 8) >>> (s.g % 4 * 2)).setWidth 2) }

/-- R131: column entry puts the header region behind the cursor; no byte is read, no length checked. -/
def Obligations.ColumnEntry : Prop :=
  ∀ (s : State), Running s → s.pos = .column →
    step s = .next { s with hdr := s.cur, cur := s.cur + (s.n / 16 + 3) / 4, g := 0, pos := .group }

/-- R134, R135: before every group, whatever its selector, fewer than 32 remaining bytes raise TAIL_MARGIN, and the cursor
stays; with 32 or more the header byte of the group is read and its element run. -/
def Obligations.MarginCheckBeforeEveryGroup : Prop :=
  ∀ (s : State), Running s → s.pos = .group →
    ((s.inlen.toNat < s.cur ∨ s.inlen.toNat - s.cur < 32) → step s = .next (takeException .tailMargin s)) ∧
    (takeException .tailMargin s).cur = s.cur ∧
    (s.cur + 32 ≤ s.inlen.toNat → s.capacitiesHold = true → s.hdr + s.g / 4 < s.inlen.toNat →
      ∃ i, decode .header ((s.cell .input (s.hdr + s.g / 4)).setWidth 32) = .ok i ∧ step s = exec i s)

/-- R130, R133: from column entry, the engine fills `COL[0 .. n-1]` with the residuals of `DecodeColumn` and stands at vertex 0
of the delta pass with the cursor after the last group, or takes the exception `DecodeColumn` raises. -/
def Obligations.EngineDecodesColumn : Prop :=
  ∀ (s : State), Inv s → Running s → s.pos = .column →
    match decodeColumn s.config.codeOrder (s.cell .input) s.inlen.toNat s.cur s.n with
    | .value (rs, a') =>
      ∃ t, Reaches s t ∧ Running t ∧ rs.length = s.n ∧
        (∀ x, x < s.n → some (t.cell .col x) = rs[x]?) ∧
        t.pos = .residual ∧ t.cur = a' ∧ t.hdr = s.cur ∧ t.i = 0 ∧ t.p = s.cell .lastv s.k ∧ SameOutside s t ∧
        t.voff = s.voff ∧ t.bsize = s.bsize ∧ t.bcount = s.bcount ∧ t.n = s.n ∧ t.k = s.k ∧
        SameCells .lastv s t ∧ SameCells .blk s t
    | .raised cause a' =>
      ∃ t, Reaches s t ∧ t.engine = .error ∧ t.cause = cause ∧ t.err = cause.errClass ∧ t.cur = a' ∧
        SameOperands s t ∧ SameCells .input s t

/-! ### The block decoder -/

/-- R146: `unzigzag` is `neg8(v & 1) ^ (v >> 1)`: `v >> 1` for even `v`, `255 - (v >> 1)` for odd `v`, with the document's own
four values. -/
def Obligations.UnzigzagFormula : Prop :=
  ∀ (v : Byte),
    unzigzag v = (-(v &&& 1#8)) ^^^ (v >>> 1) ∧
    (v &&& 1#8 = 0#8 → unzigzag v = v >>> 1) ∧ (v &&& 1#8 = 1#8 → unzigzag v = 255#8 - (v >>> 1)) ∧
    unzigzag 0#8 = 0#8 ∧ unzigzag 1#8 = 255#8 ∧ unzigzag 2#8 = 1#8 ∧ unzigzag 3#8 = 254#8

/-- R147: `unzigzag` is a bijection; even `2m` goes to `+m`, odd `2m + 1` to `-(m + 1)`, read as a signed byte. -/
def Obligations.UnzigzagBijective : Prop :=
  Function.Bijective unzigzag ∧
  (∀ m : BitVec 7, (unzigzag (m ++ 0#1)).toNat = m.toNat ∧ (unzigzag (m ++ 0#1)).toInt = m.toNat) ∧
  (∀ m : BitVec 7, (unzigzag (m ++ 1#1)).toNat = 255 - m.toNat ∧
    (unzigzag (m ++ 1#1)).toInt = -((m.toNat : Int) + 1)) ∧
  unzigzag 254#8 = 127#8 ∧ unzigzag 255#8 = 128#8

/-- R94, R148, R152, R154, `ZZ.POS` and `ZZ.NEG`: the residual's `unzigzag` plus the predictor, modulo 256, goes to
`BLK[i * VSIZE + k]` and becomes the predictor; everything else stays. -/
def Obligations.ResidualStepsTheDelta : Prop :=
  ∀ (s : State) (m : BitVec 7) (odd : Bool), ∃ t,
    exec (if odd then .zzNeg m else .zzPos m) s = .next t ∧
    StepsDelta (if odd then unzigzag (m ++ 1#1) else unzigzag (m ++ 0#1)) s t ∧
    t.cur = s.cur ∧ SameOutside s t ∧ SameBlock s t ∧ SameCodeLoop s t ∧ SameCells .lastv s t ∧ SameCells .col s t

/-- R149: the values of a column in closed form: the predictor plus the sum of the deltas up to and including the value's
own. -/
def Obligations.PredictorChainClosedForm : Prop :=
  ∀ (p : Byte) (rs : List Byte),
    (deltaChain p rs).length = rs.length ∧
    ∀ i, i < rs.length →
      (deltaChain p rs)[i]? = some (BitVec.ofNat 8 (p.toNat + ((rs.take (i + 1)).map fun r => (unzigzag r).toNat).sum))

/-- R156, R157: the commit copies `bcount * VSIZE` bytes of BLK to `OUT[voff * VSIZE ..]`, the last vertex of BLK to LASTV, and
advances `voff`; no other byte changes. -/
def Obligations.CommitWritesBlockAndLastVertex : Prop :=
  ∀ (s : State), Running s → s.pos = .commit →
    capacityHolds s.config.outCap ((s.voff + s.bcount) * s.vsize.toNat) = true →
    ∃ t, step s = .next t ∧
      (∀ x, x < s.bcount * s.vsize.toNat → t.cell .output (s.voff * s.vsize.toNat + x) = s.cell .blk x) ∧
      SameCellsOutside .output (s.voff * s.vsize.toNat) (s.bcount * s.vsize.toNat) s t ∧
      (∀ x, x < s.vsize.toNat → t.cell .lastv x = s.cell .blk (s.vsize.toNat * (s.bcount - 1) + x)) ∧
      SameCellsOutside .lastv 0 s.vsize.toNat s t ∧
      t.voff = s.voff + s.bcount ∧ t.pos = .blockLoop ∧ t.cur = s.cur ∧
      SameOperands s t ∧ SameStatus s t ∧ SameCells .input s t ∧ SameCells .col s t ∧ SameCells .blk s t

/-- R151, R158, R172, R176: the head of the block loop. -/
def Obligations.BlockLoopHead : Prop :=
  ∀ (s : State), Running s → s.pos = .blockLoop →
    (s.vcount.toNat ≤ s.voff → step s = .next (completeDecode s)) ∧
    (s.voff < s.vcount.toNat →
      let bcount := min s.bsize (s.vcount.toNat - s.voff)
      ((1 ≤ bcount ∧ bcount ≤ 256) →
        step s = .next { s with bcount := bcount, n := 16 * ((bcount + 15) / 16), k := 0, pos := .column }) ∧
      ((bcount = 0 ∨ 257 ≤ bcount) → step s = .next (takeException .blockCount s)))

/-- R158: BLOCK_COUNT is never raised by a decode; the block decoder alone raises it, with the cursor at the block's start,
exactly for a count outside 1..256. -/
def Obligations.BlockCountUnreachable : Prop :=
  (∀ (s t : State), Inv s → s.engine = .busy → engineTurn s = .next t → t.cause ≠ .blockCount) ∧
  (∀ (order : CodeOrder) (rd : Nat → Byte) (inlen bcount cur : Nat) (lastv : List Byte),
    (bcount = 0 ∨ 257 ≤ bcount) → decodeBlock order rd inlen bcount lastv cur = .raised .blockCount cur) ∧
  (∀ (order : CodeOrder) (rd : Nat → Byte) (inlen bcount cur : Nat) (lastv : List Byte) (a : Nat),
    1 ≤ bcount → bcount ≤ 256 → decodeBlock order rd inlen bcount lastv cur ≠ .raised .blockCount a)

/-- R170, R171: the block size for every legal VSIZE. -/
def Obligations.BlockSizeProperties : Prop :=
  ∀ (v : Nat), 4 ≤ v → v ≤ 256 → v % 4 = 0 →
    blockSize v = min 256 (16 * ((8192 / v) / 16)) ∧
    blockSize v % 16 = 0 ∧ 32 ≤ blockSize v ∧ blockSize v ≤ 256 ∧ blockSize v * v ≤ 8192 ∧
    (blockSize v = 256 ↔ v ≤ 32) ∧ blockSize 256 = 32

/-! ### The stream sequencer -/

/-- R165, R166, R169: the operand checks, in their order. -/
def Obligations.OperandChecks : Prop :=
  ∀ (s : State), Running s → s.pos = .operands →
    ((s.vsize.toNat = 0 ∨ 257 ≤ s.vsize.toNat) → step s = .next (takeException .vsizeRange s)) ∧
    (1 ≤ s.vsize.toNat → s.vsize.toNat ≤ 256 → s.vsize.toNat % 4 ≠ 0 →
      step s = .next (takeException .vsizeAlign s)) ∧
    (1 ≤ s.vsize.toNat → s.vsize.toNat ≤ 256 → s.vsize.toNat % 4 = 0 → s.inlen.toNat < 1 + s.vsize.toNat →
      step s = .next (takeException .shortBuffer s)) ∧
    (1 ≤ s.vsize.toNat → s.vsize.toNat ≤ 256 → s.vsize.toNat % 4 = 0 → 1 + s.vsize.toNat ≤ s.inlen.toNat →
      step s = .next { s with cur := 0, pos := .tag })

/-- R167, `TAG`: the cursor stands at 1 and the snapshot is next; any other byte at `IN[0]` raises BAD_TAG, with the cursor
at 0. -/
def Obligations.TagCheck : Prop :=
  (∀ (s : State), exec .tag s = .next { s with cur := 1, k := 0, pos := .snapshot }) ∧
  (∀ (s : State), Running s → s.pos = .tag → 1 ≤ s.inlen.toNat → s.capacitiesHold = true →
    (s.cell .input 0 = 0xA0#8 → step s = exec .tag s) ∧
    (s.cell .input 0 ≠ 0xA0#8 → step s = .next (takeException .badTag s)) ∧
    (takeException .badTag s).cur = s.cur) ∧
  (∀ (s : State), Inv s → Running s → s.pos = .tag → s.cur = 0)

/-- R91, R168, R170, `SNAP`: `LASTV[k] <- v`, raw; the cursor does not move; after byte `VSIZE - 1` the block loop begins at
vertex 0 with the block size of VSIZE. -/
def Obligations.SnapshotByteInitialisesLastVertex : Prop :=
  ∀ (s : State) (v : Byte), ∃ t, exec (.snap v) s = .next t ∧
    t.cell .lastv s.k = v ∧ SameCellsOutside .lastv s.k 1 s t ∧ t.cur = s.cur ∧
    (s.k + 1 < s.vsize.toNat → t.k = s.k + 1 ∧ t.pos = s.pos ∧ t.voff = s.voff ∧ t.bsize = s.bsize) ∧
    (¬ s.k + 1 < s.vsize.toNat → t.k = s.k ∧ t.pos = .blockLoop ∧ t.voff = 0 ∧
      t.bsize = min 256 (16 * ((8192 / s.vsize.toNat) / 16))) ∧
    SameOutside s t ∧ t.bcount = s.bcount ∧ t.n = s.n ∧ t.hdr = s.hdr ∧ SameCodeLoop s t ∧ t.i = s.i ∧
    t.p = s.p ∧ SameCells .col s t ∧ SameCells .blk s t

/-- R66, R180, R206: no stream element touches the operand registers, the status, IN or OUT, and every one completes. -/
def Obligations.StreamElementsStayInside : Prop :=
  ∀ (i : Instr) (s : State), i.slot ≠ .ctrl → ∃ t, exec i s = .next t ∧ SameOutside s t

/-- R15, R177: a decode that yields a value yields `VCOUNT * VSIZE` bytes. -/
def Obligations.DecodedLength : Prop :=
  ∀ (order : CodeOrder) (vcount vsize inlen : Nat) (rd : Nat → Byte) (bytes : List Byte) (cur : Nat),
    decodeStream order vcount vsize inlen rd = .value (bytes, cur) → bytes.length = vcount * vsize

/-- R175: with `VCOUNT = 0` the checks are made as always and can fail as always; then the decode completes with no byte
and the cursor at 1. -/
def Obligations.EmptyDecode : Prop :=
  ∀ (order : CodeOrder) (vsize inlen : Nat) (rd : Nat → Byte),
    ((vsize = 0 ∨ 257 ≤ vsize) → decodeStream order 0 vsize inlen rd = .raised .vsizeRange 0) ∧
    (1 ≤ vsize → vsize ≤ 256 → vsize % 4 ≠ 0 → decodeStream order 0 vsize inlen rd = .raised .vsizeAlign 0) ∧
    (1 ≤ vsize → vsize ≤ 256 → vsize % 4 = 0 → inlen < 1 + vsize →
      decodeStream order 0 vsize inlen rd = .raised .shortBuffer 0) ∧
    (1 ≤ vsize → vsize ≤ 256 → vsize % 4 = 0 → 1 + vsize ≤ inlen → rd 0 ≠ 0xA0#8 →
      decodeStream order 0 vsize inlen rd = .raised .badTag 0) ∧
    (1 ≤ vsize → vsize ≤ 256 → vsize % 4 = 0 → 1 + vsize ≤ inlen → rd 0 = 0xA0#8 →
      decodeStream order 0 vsize inlen rd = .value ([], 1))

/-- R14, R173, R176, R183, R202: a decode begun by START ends as `DecodeStream` of its operands and buffer does: in DONE with
exactly its bytes in OUT, no other byte of OUT changed, and its cursor; or in ERROR with its cause, class and cursor. -/
def Obligations.EngineRunsDecodeStream : Prop :=
  ∀ (s : State), Inv s → Running s → s.pos = .operands →
    ∃ t, Reaches s t ∧ SameOperands s t ∧ SameCells .input s t ∧
      match decodeStream s.config.codeOrder s.vcount.toNat s.vsize.toNat s.inlen.toNat (s.cell .input) with
      | .value (bytes, cur) =>
        t.engine = .done ∧ t.err = .none ∧ t.cause = .none ∧ t.cur = cur ∧
        (∀ x, x < s.vcount.toNat * s.vsize.toNat → some (t.cell .output x) = bytes[x]?) ∧
        (∀ x, s.vcount.toNat * s.vsize.toNat ≤ x → t.cell .output x = s.cell .output x)
      | .raised cause cur =>
        t.engine = .error ∧ t.err = cause.errClass ∧ t.cause = cause ∧ t.cur = cur

/-- R15, R180: every decode ends, in DONE or ERROR. -/
def Obligations.EveryDecodeEnds : Prop :=
  ∀ (s : State), Inv s → Running s → ∃ t, Reaches s t ∧ (t.engine = .done ∨ t.engine = .error)

/-- R38, R177, R224: the outcome of a decode depends on the operands, the bytes `IN[0 .. INLEN-1]` and CODE_ORDER only: two
machines that agree on these end alike, whatever else they hold. -/
def Obligations.OutcomeDependsOnOperandsAndInput : Prop :=
  ∀ (s₁ s₂ : State), Inv s₁ → Inv s₂ → Running s₁ → Running s₂ → s₁.pos = .operands → s₂.pos = .operands →
    s₁.vcount = s₂.vcount → s₁.vsize = s₂.vsize → s₁.inlen = s₂.inlen →
    s₁.config.codeOrder = s₂.config.codeOrder →
    (∀ a, a < s₁.inlen.toNat → s₁.cell .input a = s₂.cell .input a) →
    ∃ t₁ t₂, Reaches s₁ t₁ ∧ Reaches s₂ t₂ ∧ t₁.engine ≠ .busy ∧
      t₁.engine = t₂.engine ∧ t₁.err = t₂.err ∧ t₁.cause = t₂.cause ∧ t₁.cur = t₂.cur ∧
      (t₁.engine = .done → ∀ x, x < s₁.vcount.toNat * s₁.vsize.toNat → t₁.cell .output x = t₂.cell .output x)

/-! ### Commands -/

/-- R179, `CMD.START`: accepted in IDLE, whatever bits 31:2, and then the decode begins; ignored in every other state. A START
whose operands exceed the capacities is refused (U5). -/
def Obligations.StartCommand : Prop :=
  ∀ (s : State) (r : BitVec 30),
    (s.engine = .idle → s.capacitiesHold = true → ∃ t, exec (.cmdStart r) s = .next t ∧
      t.engine = .busy ∧ t.err = .none ∧ t.cause = .none ∧ t.cur = 0 ∧ t.irq = false ∧ t.pos = .operands ∧
      SameOperands s t ∧ (∀ bank, SameCells bank s t) ∧ SameBlock s t ∧ t.k = s.k ∧ SameCodeLoop s t ∧
      t.i = s.i ∧ t.p = s.p) ∧
    (s.engine = .idle → s.capacitiesHold = false → exec (.cmdStart r) s = .refused .startBeyondCapacity) ∧
    (s.engine ≠ .idle → exec (.cmdStart r) s = .next s)

/-- R181, `CMD.CLEAR`: accepted in DONE and ERROR, whatever bits 31:2; ignored in IDLE and BUSY. -/
def Obligations.ClearCommand : Prop :=
  ∀ (s : State) (r : BitVec 30),
    ((s.engine = .done ∨ s.engine = .error) → ∃ t, exec (.cmdClear r) s = .next t ∧
      t.engine = .idle ∧ t.err = .none ∧ t.cause = .none ∧ t.cur = 0 ∧ t.irq = false ∧ t.pos = s.pos ∧
      SameOperands s t ∧ (∀ bank, SameCells bank s t) ∧ SameBlock s t ∧ t.k = s.k ∧ SameCodeLoop s t ∧
      t.i = s.i ∧ t.p = s.p) ∧
    ((s.engine = .idle ∨ s.engine = .busy) → exec (.cmdClear r) s = .next s)

/-- R29, R182, `CMD.NONE` and `CMD.RSVD`: nothing happens, in every state, whatever bits 31:2. -/
def Obligations.OtherCommandsDoNothing : Prop :=
  ∀ (s : State) (r : BitVec 30), exec (.cmdNone r) s = .next s ∧ exec (.cmdRsvd r) s = .next s

/-- R178: STATE changes only along the arrows of the diagram, or to IDLE by reset (R222). -/
def Obligations.StateDiagram : Prop :=
  ∀ (s t : State), step s = .next t →
    t.engine = s.engine ∨ (s.engine = .idle ∧ t.engine = .busy) ∨ (s.engine = .busy ∧ t.engine = .done) ∨
    (s.engine = .busy ∧ t.engine = .error) ∨ (s.engine = .done ∧ t.engine = .idle) ∨
    (s.engine = .error ∧ t.engine = .idle) ∨ (t.engine = .idle ∧ t.rst = true)

/-- R66, R180: while BUSY no step but a reset changes an operand register or a byte of IN. -/
def Obligations.OperandsStableWhileBusy : Prop :=
  ∀ (s t : State), s.engine = .busy → step s = .next t → s.pending.head? ≠ some (.setRst true) →
    t.vcount = s.vcount ∧ t.vsize = s.vsize ∧ t.inlen = s.inlen ∧ t.config = s.config ∧ SameCells .input s t

/-! ### Exceptions -/

/-- R201, R202: what taking an exception writes and leaves. That OUT becomes unspecified in its whole extent as cells that
read as new free values is the model's reading of D17 and R203 (log 8). -/
def Obligations.ExceptionEntry : Prop :=
  ∀ (s : State) (c : Cause),
    (takeException c s).engine = .error ∧ (takeException c s).err = c.errClass ∧ (takeException c s).cause = c ∧
    (takeException c s).irq = true ∧ (takeException c s).pos = .quiet ∧ (takeException c s).cur = s.cur ∧
    SameOperands s (takeException c s) ∧ SameBlock s (takeException c s) ∧ (takeException c s).k = s.k ∧
    SameCodeLoop s (takeException c s) ∧ (takeException c s).i = s.i ∧ (takeException c s).p = s.p ∧
    SameCells .input s (takeException c s) ∧ SameCells .lastv s (takeException c s) ∧
    SameCells .col s (takeException c s) ∧ SameCells .blk s (takeException c s) ∧
    ∀ a, (takeException c s).cell .output a = Config.unspecified .output (s.outEpoch + 1) a

/-- R204, R205: with no host access to come, ERROR, DONE and IDLE stay as they are. -/
def Obligations.EngineQuiescentUnlessBusy : Prop :=
  ∀ (s : State), s.pending = [] → s.engine ≠ .busy → step s = .next s

/-! ### Registers, buffers, reset -/

/-- R30, R198: the reset value of STATUS, its invariants, the word it reads as (one of the nine of the rule, its fields at
their places), and the completion output. -/
def Obligations.StatusWords : Prop :=
  (State.reset.engine = .idle ∧ State.reset.err = .none ∧ State.reset.cause = .none) ∧
  (EngineState.idle.code = 0#2 ∧ EngineState.busy.code = 1#2 ∧ EngineState.done.code = 2#2 ∧
    EngineState.error.code = 3#2) ∧
  (∀ (s : State), Inv s →
    (s.err ≠ .none ↔ s.engine = .error) ∧
    (s.cause ∈ [Cause.vsizeRange, .vsizeAlign, .blockCount] ↔ s.err = .invalidArgument) ∧
    (s.cause ∈ [Cause.shortBuffer, .badTag, .tailMargin] ↔ s.err = .corruptStream) ∧
    s.statusWord ∈ [0x000#32, 0x001#32, 0x002#32, 0x113#32, 0x213#32, 0x313#32, 0x423#32, 0x523#32, 0x623#32] ∧
    s.statusWord.extractLsb' 0 2 = s.engine.code ∧ s.statusWord.extractLsb' 4 2 = s.err.code ∧
    s.statusWord.extractLsb' 8 4 = s.cause.code ∧ s.statusWord.extractLsb' 2 2 = 0#2 ∧
    s.statusWord.extractLsb' 6 2 = 0#2 ∧ s.statusWord.extractLsb' 12 20 = 0#20 ∧
    (s.engine = .idle → s.statusWord = 0x000#32) ∧ (s.engine = .busy → s.statusWord = 0x001#32) ∧
    (s.engine = .done → s.statusWord = 0x002#32) ∧
    (s.cause = .vsizeRange → s.statusWord = 0x113#32) ∧ (s.cause = .vsizeAlign → s.statusWord = 0x213#32) ∧
    (s.cause = .blockCount → s.statusWord = 0x313#32) ∧ (s.cause = .shortBuffer → s.statusWord = 0x423#32) ∧
    (s.cause = .badTag → s.statusWord = 0x523#32) ∧ (s.cause = .tailMargin → s.statusWord = 0x623#32) ∧
    (s.irq = true ↔ s.engine = .done ∨ s.engine = .error))

/-- R28 to R34: what a word read at each offset returns. Reading changes nothing of the VBD; the free value that CUR reads as
while BUSY is the model's (log 7). -/
def Obligations.RegisterReads : Prop :=
  ∀ (s : State) (offset : Nat) (rest : List HostOp), s.pending = .readReg .word offset :: rest → offset % 4 = 0 →
    ∃ t, step s = .next t ∧
      t = { s with pending := rest, readData := t.readData, freeCount := t.freeCount } ∧
      (offset = 0x00 → t.readData = 0#32) ∧ (offset = 0x04 → t.readData = s.statusWord) ∧
      (offset = 0x08 → t.readData = s.vcount) ∧ (offset = 0x0C → t.readData = s.vsize) ∧
      (offset = 0x10 → t.readData = s.inlen) ∧
      (offset = 0x14 → s.engine = .idle → t.readData = 0#32) ∧
      (offset = 0x14 → (s.engine = .done ∨ s.engine = .error) → t.readData = BitVec.ofNat 32 s.cur) ∧
      (offset = 0x14 → s.engine = .busy →
        t.readData = Config.anyWord s.freeCount ∧ t.freeCount = s.freeCount + 1) ∧
      (0x18 ≤ offset → t.readData = 0#32)

/-- R28, R31 to R33, R182: word writes other than to CTRL: the operand registers take the value in IDLE only, every other write
is ignored. -/
def Obligations.RegisterWrites : Prop :=
  ∀ (s : State) (offset : Nat) (v : Word) (rest : List HostOp),
    s.pending = .writeReg .word offset v :: rest → offset % 4 = 0 → offset ≠ 0x00 → s.rst = false →
    (s.engine = .idle → offset = 0x08 → step s = .next { s with pending := rest, vcount := v }) ∧
    (s.engine = .idle → offset = 0x0C → step s = .next { s with pending := rest, vsize := v }) ∧
    (s.engine = .idle → offset = 0x10 → step s = .next { s with pending := rest, inlen := v }) ∧
    (s.engine = .idle → (offset = 0x04 ∨ 0x14 ≤ offset) → step s = .next { s with pending := rest }) ∧
    (s.engine ≠ .idle → step s = .next { s with pending := rest })

/-- R35, U6: an access that is not an aligned 32-bit word is refused. -/
def Obligations.PartialAccessRefused : Prop :=
  ∀ (s : State) (width : AccessWidth) (offset : Nat) (v : Word) (rest : List HostOp),
    (width ≠ .word ∨ offset % 4 ≠ 0) →
    (s.pending = .writeReg width offset v :: rest → step s = .refused .partialRegisterAccess) ∧
    (s.pending = .readReg width offset :: rest → step s = .refused .partialRegisterAccess)

/-- R36, R50, R66, U2: a host write of IN. That a write at or above IN_CAP faults is the model's own choice (log 4), and that
a write in reset leaves nothing is the model's reading of R220 and R223 (log 9). -/
def Obligations.HostWritesInput : Prop :=
  ∀ (s : State) (a : Nat) (v : Byte) (rest : List HostOp), s.pending = .writeIn a v :: rest →
    (s.engine = .busy → step s = .refused .inWriteWhileBusy) ∧
    (s.engine ≠ .busy → capacityHolds s.config.inCap (a + 1) = false → step s = .fault .inBeyondCapacity) ∧
    (s.engine ≠ .busy → capacityHolds s.config.inCap (a + 1) = true → s.rst = false →
      ∃ t, step s = .next t ∧ t.cell .input a = v ∧ SameCellsOutside .input a 1 s t ∧
        t = { s with pending := rest, inBuf := t.inBuf }) ∧
    (s.engine ≠ .busy → capacityHolds s.config.inCap (a + 1) = true → s.rst = true →
      step s = .next { s with pending := rest })

/-- R36, R50, R183, U4, U11: a host read of OUT gives the cell in IDLE and DONE, a free value in BUSY and ERROR (the model's
own, log 7), and faults at or above OUT_CAP (the model's own choice, log 4); a host read of IN and a host write of OUT are
refused. -/
def Obligations.HostReadsOutput : Prop :=
  ∀ (s : State) (a : Nat) (v : Byte) (rest : List HostOp),
    (s.pending = .readOut a :: rest → capacityHolds s.config.outCap (a + 1) = true →
      (s.engine = .idle ∨ s.engine = .done) →
      step s = .next { s with pending := rest, readData := (s.cell .output a).setWidth 32 }) ∧
    (s.pending = .readOut a :: rest → capacityHolds s.config.outCap (a + 1) = true →
      (s.engine = .busy ∨ s.engine = .error) →
      step s = .next
        { s with
          pending := rest
          readData := (Config.anyByte s.freeCount).setWidth 32
          freeCount := s.freeCount + 1 }) ∧
    (s.pending = .readOut a :: rest → capacityHolds s.config.outCap (a + 1) = false →
      step s = .fault .outBeyondCapacity) ∧
    (s.pending = .readIn a :: rest → step s = .refused .hostReadOfIn) ∧
    (s.pending = .writeOut a v :: rest → step s = .refused .hostWriteOfOut)

/-- R39: the values the rule's table states for reset. That a cell it leaves unspecified reads as a free value is the model's
reading (log 5). -/
def Obligations.ResetValues : Prop :=
  State.reset.engine = .idle ∧ State.reset.err = .none ∧ State.reset.cause = .none ∧
  State.reset.vcount = 0#32 ∧ State.reset.vsize = 0#32 ∧ State.reset.inlen = 0#32 ∧ State.reset.cur = 0 ∧
  State.reset.irq = false ∧ State.reset.statusWord = 0#32 ∧ State.reset.registerWord 0x14 = 0#32 ∧
  (∀ bank a, State.reset.cell bank a = Config.unspecified bank 0 a)

/-- R220, R222, R223: the reset input, from every state. That a register write in reset changes nothing but the host's list,
and that the arrays read as new free values, are stated too (log 5, 9). -/
def Obligations.ResetInput : Prop :=
  ∀ (s : State) (rest : List HostOp),
    (s.pending = .setRst true :: rest → ∃ t, step s = .next t ∧
      t.rst = true ∧ t.engine = .idle ∧ t.err = .none ∧ t.cause = .none ∧ t.vcount = 0#32 ∧ t.vsize = 0#32 ∧
      t.inlen = 0#32 ∧ t.cur = 0 ∧ t.irq = false ∧ t.statusWord = 0#32 ∧ t.config = s.config ∧ t.pending = rest ∧
      (∀ a, t.cell .output a = Config.unspecified .output (s.outEpoch + 1) a) ∧
      (∀ bank a, bank ≠ .output → t.cell bank a = Config.unspecified bank (s.resetEpoch + 1) a)) ∧
    (s.pending = .setRst false :: rest → step s = .next { s with pending := rest, rst := false }) ∧
    (∀ offset v, s.pending = .writeReg .word offset v :: rest → offset % 4 = 0 → s.rst = true →
      step s = .next { s with pending := rest })

/-! ### Invariants -/

/-- The invariant holds right after reset. -/
def Obligations.InvariantAtReset : Prop := Inv State.reset

/-- The invariant is kept by every step, of the engine and of the host, from every state that has it. -/
def Obligations.InvariantKept : Prop := ∀ (s t : State), Inv s → step s = .next t → Inv t

/-- R136: the engine's turn always answers a next state: what it reads is present, below INLEN and inside IN_CAP, and what it
commits is inside OUT_CAP. -/
def Obligations.EngineReadsInBounds : Prop :=
  ∀ (s : State), Inv s →
    (∃ t, engineTurn s = .next t) ∧
    (s.engine = .busy → s.pos = .group → s.marginOk = true →
      s.cur + 32 ≤ s.inlen.toNat ∧ s.hdr + s.g / 4 < s.cur) ∧
    (s.engine = .busy → (s.pos = .group → s.marginOk = true) → ∀ reason, s.presented ≠ .missing reason)

/-- R24, R202: in a decode the cursor never exceeds INLEN, and a TAIL_MARGIN is raised with fewer than 32 bytes remaining. -/
def Obligations.CursorWithinInput : Prop :=
  (∀ (s : State), Inv s → s.engine = .busy → s.cur ≤ s.inlen.toNat) ∧
  (∀ (s t : State), Inv s → s.engine = .busy → engineTurn s = .next t → t.cause = .tailMargin →
    t.cur = s.cur ∧ t.cur ≤ t.inlen.toNat ∧ t.inlen.toNat - t.cur < 32)
end

