-- ==== Sys2Proof/Laws/State.lean ====
section
/-! SUPPORT. One lemma per field per named update of State, true by rfl, so that no proof unfolds a record update. -/

namespace Sys2Proof.Machine

@[simp] theorem writeLastv_engine (s : State) (a : Nat) (v : Byte) : (s.writeLastv a v).engine = s.engine := rfl
@[simp] theorem writeLastv_err (s : State) (a : Nat) (v : Byte) : (s.writeLastv a v).err = s.err := rfl
@[simp] theorem writeLastv_cause (s : State) (a : Nat) (v : Byte) : (s.writeLastv a v).cause = s.cause := rfl
@[simp] theorem writeLastv_vcount (s : State) (a : Nat) (v : Byte) : (s.writeLastv a v).vcount = s.vcount := rfl
@[simp] theorem writeLastv_vsize (s : State) (a : Nat) (v : Byte) : (s.writeLastv a v).vsize = s.vsize := rfl
@[simp] theorem writeLastv_inlen (s : State) (a : Nat) (v : Byte) : (s.writeLastv a v).inlen = s.inlen := rfl
@[simp] theorem writeLastv_cur (s : State) (a : Nat) (v : Byte) : (s.writeLastv a v).cur = s.cur := rfl
@[simp] theorem writeLastv_voff (s : State) (a : Nat) (v : Byte) : (s.writeLastv a v).voff = s.voff := rfl
@[simp] theorem writeLastv_bsize (s : State) (a : Nat) (v : Byte) : (s.writeLastv a v).bsize = s.bsize := rfl
@[simp] theorem writeLastv_bcount (s : State) (a : Nat) (v : Byte) : (s.writeLastv a v).bcount = s.bcount := rfl
@[simp] theorem writeLastv_n (s : State) (a : Nat) (v : Byte) : (s.writeLastv a v).n = s.n := rfl
@[simp] theorem writeLastv_k (s : State) (a : Nat) (v : Byte) : (s.writeLastv a v).k = s.k := rfl
@[simp] theorem writeLastv_hdr (s : State) (a : Nat) (v : Byte) : (s.writeLastv a v).hdr = s.hdr := rfl
@[simp] theorem writeLastv_g (s : State) (a : Nat) (v : Byte) : (s.writeLastv a v).g = s.g := rfl
@[simp] theorem writeLastv_lastv (s : State) (a : Nat) (v : Byte) : (s.writeLastv a v).lastv = s.lastv.put a v := rfl
@[simp] theorem writeLastv_col (s : State) (a : Nat) (v : Byte) : (s.writeLastv a v).col = s.col := rfl
@[simp] theorem writeLastv_blk (s : State) (a : Nat) (v : Byte) : (s.writeLastv a v).blk = s.blk := rfl
@[simp] theorem writeLastv_inBuf (s : State) (a : Nat) (v : Byte) : (s.writeLastv a v).inBuf = s.inBuf := rfl
@[simp] theorem writeLastv_outBuf (s : State) (a : Nat) (v : Byte) : (s.writeLastv a v).outBuf = s.outBuf := rfl
@[simp] theorem writeLastv_rst (s : State) (a : Nat) (v : Byte) : (s.writeLastv a v).rst = s.rst := rfl
@[simp] theorem writeLastv_j (s : State) (a : Nat) (v : Byte) : (s.writeLastv a v).j = s.j := rfl
@[simp] theorem writeLastv_ov (s : State) (a : Nat) (v : Byte) : (s.writeLastv a v).ov = s.ov := rfl
@[simp] theorem writeLastv_packed (s : State) (a : Nat) (v : Byte) : (s.writeLastv a v).packed = s.packed := rfl
@[simp] theorem writeLastv_i (s : State) (a : Nat) (v : Byte) : (s.writeLastv a v).i = s.i := rfl
@[simp] theorem writeLastv_p (s : State) (a : Nat) (v : Byte) : (s.writeLastv a v).p = s.p := rfl
@[simp] theorem writeLastv_pos (s : State) (a : Nat) (v : Byte) : (s.writeLastv a v).pos = s.pos := rfl
@[simp] theorem writeLastv_form (s : State) (a : Nat) (v : Byte) : (s.writeLastv a v).form = s.form := rfl
@[simp] theorem writeLastv_config (s : State) (a : Nat) (v : Byte) : (s.writeLastv a v).config = s.config := rfl
@[simp] theorem writeLastv_pending (s : State) (a : Nat) (v : Byte) : (s.writeLastv a v).pending = s.pending := rfl
@[simp] theorem writeLastv_readData (s : State) (a : Nat) (v : Byte) : (s.writeLastv a v).readData = s.readData := rfl
@[simp] theorem writeLastv_freeCount (s : State) (a : Nat) (v : Byte) : (s.writeLastv a v).freeCount = s.freeCount := rfl
@[simp] theorem writeLastv_resetEpoch (s : State) (a : Nat) (v : Byte) : (s.writeLastv a v).resetEpoch = s.resetEpoch := rfl
@[simp] theorem writeLastv_outEpoch (s : State) (a : Nat) (v : Byte) : (s.writeLastv a v).outEpoch = s.outEpoch := rfl

@[simp] theorem writeCol_engine (s : State) (a : Nat) (v : Byte) : (s.writeCol a v).engine = s.engine := rfl
@[simp] theorem writeCol_err (s : State) (a : Nat) (v : Byte) : (s.writeCol a v).err = s.err := rfl
@[simp] theorem writeCol_cause (s : State) (a : Nat) (v : Byte) : (s.writeCol a v).cause = s.cause := rfl
@[simp] theorem writeCol_vcount (s : State) (a : Nat) (v : Byte) : (s.writeCol a v).vcount = s.vcount := rfl
@[simp] theorem writeCol_vsize (s : State) (a : Nat) (v : Byte) : (s.writeCol a v).vsize = s.vsize := rfl
@[simp] theorem writeCol_inlen (s : State) (a : Nat) (v : Byte) : (s.writeCol a v).inlen = s.inlen := rfl
@[simp] theorem writeCol_cur (s : State) (a : Nat) (v : Byte) : (s.writeCol a v).cur = s.cur := rfl
@[simp] theorem writeCol_voff (s : State) (a : Nat) (v : Byte) : (s.writeCol a v).voff = s.voff := rfl
@[simp] theorem writeCol_bsize (s : State) (a : Nat) (v : Byte) : (s.writeCol a v).bsize = s.bsize := rfl
@[simp] theorem writeCol_bcount (s : State) (a : Nat) (v : Byte) : (s.writeCol a v).bcount = s.bcount := rfl
@[simp] theorem writeCol_n (s : State) (a : Nat) (v : Byte) : (s.writeCol a v).n = s.n := rfl
@[simp] theorem writeCol_k (s : State) (a : Nat) (v : Byte) : (s.writeCol a v).k = s.k := rfl
@[simp] theorem writeCol_hdr (s : State) (a : Nat) (v : Byte) : (s.writeCol a v).hdr = s.hdr := rfl
@[simp] theorem writeCol_g (s : State) (a : Nat) (v : Byte) : (s.writeCol a v).g = s.g := rfl
@[simp] theorem writeCol_lastv (s : State) (a : Nat) (v : Byte) : (s.writeCol a v).lastv = s.lastv := rfl
@[simp] theorem writeCol_col (s : State) (a : Nat) (v : Byte) : (s.writeCol a v).col = s.col.put a v := rfl
@[simp] theorem writeCol_blk (s : State) (a : Nat) (v : Byte) : (s.writeCol a v).blk = s.blk := rfl
@[simp] theorem writeCol_inBuf (s : State) (a : Nat) (v : Byte) : (s.writeCol a v).inBuf = s.inBuf := rfl
@[simp] theorem writeCol_outBuf (s : State) (a : Nat) (v : Byte) : (s.writeCol a v).outBuf = s.outBuf := rfl
@[simp] theorem writeCol_rst (s : State) (a : Nat) (v : Byte) : (s.writeCol a v).rst = s.rst := rfl
@[simp] theorem writeCol_j (s : State) (a : Nat) (v : Byte) : (s.writeCol a v).j = s.j := rfl
@[simp] theorem writeCol_ov (s : State) (a : Nat) (v : Byte) : (s.writeCol a v).ov = s.ov := rfl
@[simp] theorem writeCol_packed (s : State) (a : Nat) (v : Byte) : (s.writeCol a v).packed = s.packed := rfl
@[simp] theorem writeCol_i (s : State) (a : Nat) (v : Byte) : (s.writeCol a v).i = s.i := rfl
@[simp] theorem writeCol_p (s : State) (a : Nat) (v : Byte) : (s.writeCol a v).p = s.p := rfl
@[simp] theorem writeCol_pos (s : State) (a : Nat) (v : Byte) : (s.writeCol a v).pos = s.pos := rfl
@[simp] theorem writeCol_form (s : State) (a : Nat) (v : Byte) : (s.writeCol a v).form = s.form := rfl
@[simp] theorem writeCol_config (s : State) (a : Nat) (v : Byte) : (s.writeCol a v).config = s.config := rfl
@[simp] theorem writeCol_pending (s : State) (a : Nat) (v : Byte) : (s.writeCol a v).pending = s.pending := rfl
@[simp] theorem writeCol_readData (s : State) (a : Nat) (v : Byte) : (s.writeCol a v).readData = s.readData := rfl
@[simp] theorem writeCol_freeCount (s : State) (a : Nat) (v : Byte) : (s.writeCol a v).freeCount = s.freeCount := rfl
@[simp] theorem writeCol_resetEpoch (s : State) (a : Nat) (v : Byte) : (s.writeCol a v).resetEpoch = s.resetEpoch := rfl
@[simp] theorem writeCol_outEpoch (s : State) (a : Nat) (v : Byte) : (s.writeCol a v).outEpoch = s.outEpoch := rfl

@[simp] theorem writeBlk_engine (s : State) (a : Nat) (v : Byte) : (s.writeBlk a v).engine = s.engine := rfl
@[simp] theorem writeBlk_err (s : State) (a : Nat) (v : Byte) : (s.writeBlk a v).err = s.err := rfl
@[simp] theorem writeBlk_cause (s : State) (a : Nat) (v : Byte) : (s.writeBlk a v).cause = s.cause := rfl
@[simp] theorem writeBlk_vcount (s : State) (a : Nat) (v : Byte) : (s.writeBlk a v).vcount = s.vcount := rfl
@[simp] theorem writeBlk_vsize (s : State) (a : Nat) (v : Byte) : (s.writeBlk a v).vsize = s.vsize := rfl
@[simp] theorem writeBlk_inlen (s : State) (a : Nat) (v : Byte) : (s.writeBlk a v).inlen = s.inlen := rfl
@[simp] theorem writeBlk_cur (s : State) (a : Nat) (v : Byte) : (s.writeBlk a v).cur = s.cur := rfl
@[simp] theorem writeBlk_voff (s : State) (a : Nat) (v : Byte) : (s.writeBlk a v).voff = s.voff := rfl
@[simp] theorem writeBlk_bsize (s : State) (a : Nat) (v : Byte) : (s.writeBlk a v).bsize = s.bsize := rfl
@[simp] theorem writeBlk_bcount (s : State) (a : Nat) (v : Byte) : (s.writeBlk a v).bcount = s.bcount := rfl
@[simp] theorem writeBlk_n (s : State) (a : Nat) (v : Byte) : (s.writeBlk a v).n = s.n := rfl
@[simp] theorem writeBlk_k (s : State) (a : Nat) (v : Byte) : (s.writeBlk a v).k = s.k := rfl
@[simp] theorem writeBlk_hdr (s : State) (a : Nat) (v : Byte) : (s.writeBlk a v).hdr = s.hdr := rfl
@[simp] theorem writeBlk_g (s : State) (a : Nat) (v : Byte) : (s.writeBlk a v).g = s.g := rfl
@[simp] theorem writeBlk_lastv (s : State) (a : Nat) (v : Byte) : (s.writeBlk a v).lastv = s.lastv := rfl
@[simp] theorem writeBlk_col (s : State) (a : Nat) (v : Byte) : (s.writeBlk a v).col = s.col := rfl
@[simp] theorem writeBlk_blk (s : State) (a : Nat) (v : Byte) : (s.writeBlk a v).blk = s.blk.put a v := rfl
@[simp] theorem writeBlk_inBuf (s : State) (a : Nat) (v : Byte) : (s.writeBlk a v).inBuf = s.inBuf := rfl
@[simp] theorem writeBlk_outBuf (s : State) (a : Nat) (v : Byte) : (s.writeBlk a v).outBuf = s.outBuf := rfl
@[simp] theorem writeBlk_rst (s : State) (a : Nat) (v : Byte) : (s.writeBlk a v).rst = s.rst := rfl
@[simp] theorem writeBlk_j (s : State) (a : Nat) (v : Byte) : (s.writeBlk a v).j = s.j := rfl
@[simp] theorem writeBlk_ov (s : State) (a : Nat) (v : Byte) : (s.writeBlk a v).ov = s.ov := rfl
@[simp] theorem writeBlk_packed (s : State) (a : Nat) (v : Byte) : (s.writeBlk a v).packed = s.packed := rfl
@[simp] theorem writeBlk_i (s : State) (a : Nat) (v : Byte) : (s.writeBlk a v).i = s.i := rfl
@[simp] theorem writeBlk_p (s : State) (a : Nat) (v : Byte) : (s.writeBlk a v).p = s.p := rfl
@[simp] theorem writeBlk_pos (s : State) (a : Nat) (v : Byte) : (s.writeBlk a v).pos = s.pos := rfl
@[simp] theorem writeBlk_form (s : State) (a : Nat) (v : Byte) : (s.writeBlk a v).form = s.form := rfl
@[simp] theorem writeBlk_config (s : State) (a : Nat) (v : Byte) : (s.writeBlk a v).config = s.config := rfl
@[simp] theorem writeBlk_pending (s : State) (a : Nat) (v : Byte) : (s.writeBlk a v).pending = s.pending := rfl
@[simp] theorem writeBlk_readData (s : State) (a : Nat) (v : Byte) : (s.writeBlk a v).readData = s.readData := rfl
@[simp] theorem writeBlk_freeCount (s : State) (a : Nat) (v : Byte) : (s.writeBlk a v).freeCount = s.freeCount := rfl
@[simp] theorem writeBlk_resetEpoch (s : State) (a : Nat) (v : Byte) : (s.writeBlk a v).resetEpoch = s.resetEpoch := rfl
@[simp] theorem writeBlk_outEpoch (s : State) (a : Nat) (v : Byte) : (s.writeBlk a v).outEpoch = s.outEpoch := rfl

@[simp] theorem writeIn_engine (s : State) (a : Nat) (v : Byte) : (s.writeIn a v).engine = s.engine := rfl
@[simp] theorem writeIn_err (s : State) (a : Nat) (v : Byte) : (s.writeIn a v).err = s.err := rfl
@[simp] theorem writeIn_cause (s : State) (a : Nat) (v : Byte) : (s.writeIn a v).cause = s.cause := rfl
@[simp] theorem writeIn_vcount (s : State) (a : Nat) (v : Byte) : (s.writeIn a v).vcount = s.vcount := rfl
@[simp] theorem writeIn_vsize (s : State) (a : Nat) (v : Byte) : (s.writeIn a v).vsize = s.vsize := rfl
@[simp] theorem writeIn_inlen (s : State) (a : Nat) (v : Byte) : (s.writeIn a v).inlen = s.inlen := rfl
@[simp] theorem writeIn_cur (s : State) (a : Nat) (v : Byte) : (s.writeIn a v).cur = s.cur := rfl
@[simp] theorem writeIn_voff (s : State) (a : Nat) (v : Byte) : (s.writeIn a v).voff = s.voff := rfl
@[simp] theorem writeIn_bsize (s : State) (a : Nat) (v : Byte) : (s.writeIn a v).bsize = s.bsize := rfl
@[simp] theorem writeIn_bcount (s : State) (a : Nat) (v : Byte) : (s.writeIn a v).bcount = s.bcount := rfl
@[simp] theorem writeIn_n (s : State) (a : Nat) (v : Byte) : (s.writeIn a v).n = s.n := rfl
@[simp] theorem writeIn_k (s : State) (a : Nat) (v : Byte) : (s.writeIn a v).k = s.k := rfl
@[simp] theorem writeIn_hdr (s : State) (a : Nat) (v : Byte) : (s.writeIn a v).hdr = s.hdr := rfl
@[simp] theorem writeIn_g (s : State) (a : Nat) (v : Byte) : (s.writeIn a v).g = s.g := rfl
@[simp] theorem writeIn_lastv (s : State) (a : Nat) (v : Byte) : (s.writeIn a v).lastv = s.lastv := rfl
@[simp] theorem writeIn_col (s : State) (a : Nat) (v : Byte) : (s.writeIn a v).col = s.col := rfl
@[simp] theorem writeIn_blk (s : State) (a : Nat) (v : Byte) : (s.writeIn a v).blk = s.blk := rfl
@[simp] theorem writeIn_inBuf (s : State) (a : Nat) (v : Byte) : (s.writeIn a v).inBuf = s.inBuf.put a v := rfl
@[simp] theorem writeIn_outBuf (s : State) (a : Nat) (v : Byte) : (s.writeIn a v).outBuf = s.outBuf := rfl
@[simp] theorem writeIn_rst (s : State) (a : Nat) (v : Byte) : (s.writeIn a v).rst = s.rst := rfl
@[simp] theorem writeIn_j (s : State) (a : Nat) (v : Byte) : (s.writeIn a v).j = s.j := rfl
@[simp] theorem writeIn_ov (s : State) (a : Nat) (v : Byte) : (s.writeIn a v).ov = s.ov := rfl
@[simp] theorem writeIn_packed (s : State) (a : Nat) (v : Byte) : (s.writeIn a v).packed = s.packed := rfl
@[simp] theorem writeIn_i (s : State) (a : Nat) (v : Byte) : (s.writeIn a v).i = s.i := rfl
@[simp] theorem writeIn_p (s : State) (a : Nat) (v : Byte) : (s.writeIn a v).p = s.p := rfl
@[simp] theorem writeIn_pos (s : State) (a : Nat) (v : Byte) : (s.writeIn a v).pos = s.pos := rfl
@[simp] theorem writeIn_form (s : State) (a : Nat) (v : Byte) : (s.writeIn a v).form = s.form := rfl
@[simp] theorem writeIn_config (s : State) (a : Nat) (v : Byte) : (s.writeIn a v).config = s.config := rfl
@[simp] theorem writeIn_pending (s : State) (a : Nat) (v : Byte) : (s.writeIn a v).pending = s.pending := rfl
@[simp] theorem writeIn_readData (s : State) (a : Nat) (v : Byte) : (s.writeIn a v).readData = s.readData := rfl
@[simp] theorem writeIn_freeCount (s : State) (a : Nat) (v : Byte) : (s.writeIn a v).freeCount = s.freeCount := rfl
@[simp] theorem writeIn_resetEpoch (s : State) (a : Nat) (v : Byte) : (s.writeIn a v).resetEpoch = s.resetEpoch := rfl
@[simp] theorem writeIn_outEpoch (s : State) (a : Nat) (v : Byte) : (s.writeIn a v).outEpoch = s.outEpoch := rfl

@[simp] theorem storeResidual_engine (v : Byte) (s : State) : (storeResidual v s).engine = s.engine := rfl
@[simp] theorem storeResidual_err (v : Byte) (s : State) : (storeResidual v s).err = s.err := rfl
@[simp] theorem storeResidual_cause (v : Byte) (s : State) : (storeResidual v s).cause = s.cause := rfl
@[simp] theorem storeResidual_vcount (v : Byte) (s : State) : (storeResidual v s).vcount = s.vcount := rfl
@[simp] theorem storeResidual_vsize (v : Byte) (s : State) : (storeResidual v s).vsize = s.vsize := rfl
@[simp] theorem storeResidual_inlen (v : Byte) (s : State) : (storeResidual v s).inlen = s.inlen := rfl
@[simp] theorem storeResidual_cur (v : Byte) (s : State) : (storeResidual v s).cur = s.cur := rfl
@[simp] theorem storeResidual_voff (v : Byte) (s : State) : (storeResidual v s).voff = s.voff := rfl
@[simp] theorem storeResidual_bsize (v : Byte) (s : State) : (storeResidual v s).bsize = s.bsize := rfl
@[simp] theorem storeResidual_bcount (v : Byte) (s : State) : (storeResidual v s).bcount = s.bcount := rfl
@[simp] theorem storeResidual_n (v : Byte) (s : State) : (storeResidual v s).n = s.n := rfl
@[simp] theorem storeResidual_k (v : Byte) (s : State) : (storeResidual v s).k = s.k := rfl
@[simp] theorem storeResidual_hdr (v : Byte) (s : State) : (storeResidual v s).hdr = s.hdr := rfl
@[simp] theorem storeResidual_g (v : Byte) (s : State) : (storeResidual v s).g = s.g := rfl
@[simp] theorem storeResidual_lastv (v : Byte) (s : State) : (storeResidual v s).lastv = s.lastv := rfl
@[simp] theorem storeResidual_col (v : Byte) (s : State) : (storeResidual v s).col = s.col.put (16 * s.g + s.j) v := rfl
@[simp] theorem storeResidual_blk (v : Byte) (s : State) : (storeResidual v s).blk = s.blk := rfl
@[simp] theorem storeResidual_inBuf (v : Byte) (s : State) : (storeResidual v s).inBuf = s.inBuf := rfl
@[simp] theorem storeResidual_outBuf (v : Byte) (s : State) : (storeResidual v s).outBuf = s.outBuf := rfl
@[simp] theorem storeResidual_rst (v : Byte) (s : State) : (storeResidual v s).rst = s.rst := rfl
@[simp] theorem storeResidual_j (v : Byte) (s : State) : (storeResidual v s).j = s.j := rfl
@[simp] theorem storeResidual_ov (v : Byte) (s : State) : (storeResidual v s).ov = s.ov := rfl
@[simp] theorem storeResidual_packed (v : Byte) (s : State) : (storeResidual v s).packed = s.packed := rfl
@[simp] theorem storeResidual_i (v : Byte) (s : State) : (storeResidual v s).i = s.i := rfl
@[simp] theorem storeResidual_p (v : Byte) (s : State) : (storeResidual v s).p = s.p := rfl
@[simp] theorem storeResidual_pos (v : Byte) (s : State) : (storeResidual v s).pos = s.pos := rfl
@[simp] theorem storeResidual_form (v : Byte) (s : State) : (storeResidual v s).form = s.form := rfl
@[simp] theorem storeResidual_config (v : Byte) (s : State) : (storeResidual v s).config = s.config := rfl
@[simp] theorem storeResidual_pending (v : Byte) (s : State) : (storeResidual v s).pending = s.pending := rfl
@[simp] theorem storeResidual_readData (v : Byte) (s : State) : (storeResidual v s).readData = s.readData := rfl
@[simp] theorem storeResidual_freeCount (v : Byte) (s : State) : (storeResidual v s).freeCount = s.freeCount := rfl
@[simp] theorem storeResidual_resetEpoch (v : Byte) (s : State) : (storeResidual v s).resetEpoch = s.resetEpoch := rfl
@[simp] theorem storeResidual_outEpoch (v : Byte) (s : State) : (storeResidual v s).outEpoch = s.outEpoch := rfl

@[simp] theorem takeException_engine (c : Cause) (s : State) : (takeException c s).engine = .error := rfl
@[simp] theorem takeException_err (c : Cause) (s : State) : (takeException c s).err = c.errClass := rfl
@[simp] theorem takeException_cause (c : Cause) (s : State) : (takeException c s).cause = c := rfl
@[simp] theorem takeException_vcount (c : Cause) (s : State) : (takeException c s).vcount = s.vcount := rfl
@[simp] theorem takeException_vsize (c : Cause) (s : State) : (takeException c s).vsize = s.vsize := rfl
@[simp] theorem takeException_inlen (c : Cause) (s : State) : (takeException c s).inlen = s.inlen := rfl
@[simp] theorem takeException_cur (c : Cause) (s : State) : (takeException c s).cur = s.cur := rfl
@[simp] theorem takeException_voff (c : Cause) (s : State) : (takeException c s).voff = s.voff := rfl
@[simp] theorem takeException_bsize (c : Cause) (s : State) : (takeException c s).bsize = s.bsize := rfl
@[simp] theorem takeException_bcount (c : Cause) (s : State) : (takeException c s).bcount = s.bcount := rfl
@[simp] theorem takeException_n (c : Cause) (s : State) : (takeException c s).n = s.n := rfl
@[simp] theorem takeException_k (c : Cause) (s : State) : (takeException c s).k = s.k := rfl
@[simp] theorem takeException_hdr (c : Cause) (s : State) : (takeException c s).hdr = s.hdr := rfl
@[simp] theorem takeException_g (c : Cause) (s : State) : (takeException c s).g = s.g := rfl
@[simp] theorem takeException_lastv (c : Cause) (s : State) : (takeException c s).lastv = s.lastv := rfl
@[simp] theorem takeException_col (c : Cause) (s : State) : (takeException c s).col = s.col := rfl
@[simp] theorem takeException_blk (c : Cause) (s : State) : (takeException c s).blk = s.blk := rfl
@[simp] theorem takeException_inBuf (c : Cause) (s : State) : (takeException c s).inBuf = s.inBuf := rfl
@[simp] theorem takeException_outBuf (c : Cause) (s : State) : (takeException c s).outBuf = [] := rfl
@[simp] theorem takeException_rst (c : Cause) (s : State) : (takeException c s).rst = s.rst := rfl
@[simp] theorem takeException_j (c : Cause) (s : State) : (takeException c s).j = s.j := rfl
@[simp] theorem takeException_ov (c : Cause) (s : State) : (takeException c s).ov = s.ov := rfl
@[simp] theorem takeException_packed (c : Cause) (s : State) : (takeException c s).packed = s.packed := rfl
@[simp] theorem takeException_i (c : Cause) (s : State) : (takeException c s).i = s.i := rfl
@[simp] theorem takeException_p (c : Cause) (s : State) : (takeException c s).p = s.p := rfl
@[simp] theorem takeException_pos (c : Cause) (s : State) : (takeException c s).pos = .quiet := rfl
@[simp] theorem takeException_form (c : Cause) (s : State) : (takeException c s).form = s.form := rfl
@[simp] theorem takeException_config (c : Cause) (s : State) : (takeException c s).config = s.config := rfl
@[simp] theorem takeException_pending (c : Cause) (s : State) : (takeException c s).pending = s.pending := rfl
@[simp] theorem takeException_readData (c : Cause) (s : State) : (takeException c s).readData = s.readData := rfl
@[simp] theorem takeException_freeCount (c : Cause) (s : State) : (takeException c s).freeCount = s.freeCount := rfl
@[simp] theorem takeException_resetEpoch (c : Cause) (s : State) : (takeException c s).resetEpoch = s.resetEpoch := rfl
@[simp] theorem takeException_outEpoch (c : Cause) (s : State) : (takeException c s).outEpoch = s.outEpoch + 1 := rfl

@[simp] theorem returnToIdle_engine (s : State) : (returnToIdle s).engine = .idle := rfl
@[simp] theorem returnToIdle_err (s : State) : (returnToIdle s).err = .none := rfl
@[simp] theorem returnToIdle_cause (s : State) : (returnToIdle s).cause = .none := rfl
@[simp] theorem returnToIdle_vcount (s : State) : (returnToIdle s).vcount = s.vcount := rfl
@[simp] theorem returnToIdle_vsize (s : State) : (returnToIdle s).vsize = s.vsize := rfl
@[simp] theorem returnToIdle_inlen (s : State) : (returnToIdle s).inlen = s.inlen := rfl
@[simp] theorem returnToIdle_cur (s : State) : (returnToIdle s).cur = 0 := rfl
@[simp] theorem returnToIdle_voff (s : State) : (returnToIdle s).voff = s.voff := rfl
@[simp] theorem returnToIdle_bsize (s : State) : (returnToIdle s).bsize = s.bsize := rfl
@[simp] theorem returnToIdle_bcount (s : State) : (returnToIdle s).bcount = s.bcount := rfl
@[simp] theorem returnToIdle_n (s : State) : (returnToIdle s).n = s.n := rfl
@[simp] theorem returnToIdle_k (s : State) : (returnToIdle s).k = s.k := rfl
@[simp] theorem returnToIdle_hdr (s : State) : (returnToIdle s).hdr = s.hdr := rfl
@[simp] theorem returnToIdle_g (s : State) : (returnToIdle s).g = s.g := rfl
@[simp] theorem returnToIdle_lastv (s : State) : (returnToIdle s).lastv = s.lastv := rfl
@[simp] theorem returnToIdle_col (s : State) : (returnToIdle s).col = s.col := rfl
@[simp] theorem returnToIdle_blk (s : State) : (returnToIdle s).blk = s.blk := rfl
@[simp] theorem returnToIdle_inBuf (s : State) : (returnToIdle s).inBuf = s.inBuf := rfl
@[simp] theorem returnToIdle_outBuf (s : State) : (returnToIdle s).outBuf = s.outBuf := rfl
@[simp] theorem returnToIdle_rst (s : State) : (returnToIdle s).rst = s.rst := rfl
@[simp] theorem returnToIdle_j (s : State) : (returnToIdle s).j = s.j := rfl
@[simp] theorem returnToIdle_ov (s : State) : (returnToIdle s).ov = s.ov := rfl
@[simp] theorem returnToIdle_packed (s : State) : (returnToIdle s).packed = s.packed := rfl
@[simp] theorem returnToIdle_i (s : State) : (returnToIdle s).i = s.i := rfl
@[simp] theorem returnToIdle_p (s : State) : (returnToIdle s).p = s.p := rfl
@[simp] theorem returnToIdle_pos (s : State) : (returnToIdle s).pos = s.pos := rfl
@[simp] theorem returnToIdle_form (s : State) : (returnToIdle s).form = s.form := rfl
@[simp] theorem returnToIdle_config (s : State) : (returnToIdle s).config = s.config := rfl
@[simp] theorem returnToIdle_pending (s : State) : (returnToIdle s).pending = s.pending := rfl
@[simp] theorem returnToIdle_readData (s : State) : (returnToIdle s).readData = s.readData := rfl
@[simp] theorem returnToIdle_freeCount (s : State) : (returnToIdle s).freeCount = s.freeCount := rfl
@[simp] theorem returnToIdle_resetEpoch (s : State) : (returnToIdle s).resetEpoch = s.resetEpoch := rfl
@[simp] theorem returnToIdle_outEpoch (s : State) : (returnToIdle s).outEpoch = s.outEpoch := rfl

@[simp] theorem beginDecode_engine (s : State) : (beginDecode s).engine = .busy := rfl
@[simp] theorem beginDecode_err (s : State) : (beginDecode s).err = .none := rfl
@[simp] theorem beginDecode_cause (s : State) : (beginDecode s).cause = .none := rfl
@[simp] theorem beginDecode_vcount (s : State) : (beginDecode s).vcount = s.vcount := rfl
@[simp] theorem beginDecode_vsize (s : State) : (beginDecode s).vsize = s.vsize := rfl
@[simp] theorem beginDecode_inlen (s : State) : (beginDecode s).inlen = s.inlen := rfl
@[simp] theorem beginDecode_cur (s : State) : (beginDecode s).cur = 0 := rfl
@[simp] theorem beginDecode_voff (s : State) : (beginDecode s).voff = s.voff := rfl
@[simp] theorem beginDecode_bsize (s : State) : (beginDecode s).bsize = s.bsize := rfl
@[simp] theorem beginDecode_bcount (s : State) : (beginDecode s).bcount = s.bcount := rfl
@[simp] theorem beginDecode_n (s : State) : (beginDecode s).n = s.n := rfl
@[simp] theorem beginDecode_k (s : State) : (beginDecode s).k = s.k := rfl
@[simp] theorem beginDecode_hdr (s : State) : (beginDecode s).hdr = s.hdr := rfl
@[simp] theorem beginDecode_g (s : State) : (beginDecode s).g = s.g := rfl
@[simp] theorem beginDecode_lastv (s : State) : (beginDecode s).lastv = s.lastv := rfl
@[simp] theorem beginDecode_col (s : State) : (beginDecode s).col = s.col := rfl
@[simp] theorem beginDecode_blk (s : State) : (beginDecode s).blk = s.blk := rfl
@[simp] theorem beginDecode_inBuf (s : State) : (beginDecode s).inBuf = s.inBuf := rfl
@[simp] theorem beginDecode_outBuf (s : State) : (beginDecode s).outBuf = s.outBuf := rfl
@[simp] theorem beginDecode_rst (s : State) : (beginDecode s).rst = s.rst := rfl
@[simp] theorem beginDecode_j (s : State) : (beginDecode s).j = s.j := rfl
@[simp] theorem beginDecode_ov (s : State) : (beginDecode s).ov = s.ov := rfl
@[simp] theorem beginDecode_packed (s : State) : (beginDecode s).packed = s.packed := rfl
@[simp] theorem beginDecode_i (s : State) : (beginDecode s).i = s.i := rfl
@[simp] theorem beginDecode_p (s : State) : (beginDecode s).p = s.p := rfl
@[simp] theorem beginDecode_pos (s : State) : (beginDecode s).pos = .operands := rfl
@[simp] theorem beginDecode_form (s : State) : (beginDecode s).form = s.form := rfl
@[simp] theorem beginDecode_config (s : State) : (beginDecode s).config = s.config := rfl
@[simp] theorem beginDecode_pending (s : State) : (beginDecode s).pending = s.pending := rfl
@[simp] theorem beginDecode_readData (s : State) : (beginDecode s).readData = s.readData := rfl
@[simp] theorem beginDecode_freeCount (s : State) : (beginDecode s).freeCount = s.freeCount := rfl
@[simp] theorem beginDecode_resetEpoch (s : State) : (beginDecode s).resetEpoch = s.resetEpoch := rfl
@[simp] theorem beginDecode_outEpoch (s : State) : (beginDecode s).outEpoch = s.outEpoch := rfl

@[simp] theorem completeDecode_engine (s : State) : (completeDecode s).engine = .done := rfl
@[simp] theorem completeDecode_err (s : State) : (completeDecode s).err = .none := rfl
@[simp] theorem completeDecode_cause (s : State) : (completeDecode s).cause = .none := rfl
@[simp] theorem completeDecode_vcount (s : State) : (completeDecode s).vcount = s.vcount := rfl
@[simp] theorem completeDecode_vsize (s : State) : (completeDecode s).vsize = s.vsize := rfl
@[simp] theorem completeDecode_inlen (s : State) : (completeDecode s).inlen = s.inlen := rfl
@[simp] theorem completeDecode_cur (s : State) : (completeDecode s).cur = s.cur := rfl
@[simp] theorem completeDecode_voff (s : State) : (completeDecode s).voff = s.voff := rfl
@[simp] theorem completeDecode_bsize (s : State) : (completeDecode s).bsize = s.bsize := rfl
@[simp] theorem completeDecode_bcount (s : State) : (completeDecode s).bcount = s.bcount := rfl
@[simp] theorem completeDecode_n (s : State) : (completeDecode s).n = s.n := rfl
@[simp] theorem completeDecode_k (s : State) : (completeDecode s).k = s.k := rfl
@[simp] theorem completeDecode_hdr (s : State) : (completeDecode s).hdr = s.hdr := rfl
@[simp] theorem completeDecode_g (s : State) : (completeDecode s).g = s.g := rfl
@[simp] theorem completeDecode_lastv (s : State) : (completeDecode s).lastv = s.lastv := rfl
@[simp] theorem completeDecode_col (s : State) : (completeDecode s).col = s.col := rfl
@[simp] theorem completeDecode_blk (s : State) : (completeDecode s).blk = s.blk := rfl
@[simp] theorem completeDecode_inBuf (s : State) : (completeDecode s).inBuf = s.inBuf := rfl
@[simp] theorem completeDecode_outBuf (s : State) : (completeDecode s).outBuf = s.outBuf := rfl
@[simp] theorem completeDecode_rst (s : State) : (completeDecode s).rst = s.rst := rfl
@[simp] theorem completeDecode_j (s : State) : (completeDecode s).j = s.j := rfl
@[simp] theorem completeDecode_ov (s : State) : (completeDecode s).ov = s.ov := rfl
@[simp] theorem completeDecode_packed (s : State) : (completeDecode s).packed = s.packed := rfl
@[simp] theorem completeDecode_i (s : State) : (completeDecode s).i = s.i := rfl
@[simp] theorem completeDecode_p (s : State) : (completeDecode s).p = s.p := rfl
@[simp] theorem completeDecode_pos (s : State) : (completeDecode s).pos = .quiet := rfl
@[simp] theorem completeDecode_form (s : State) : (completeDecode s).form = s.form := rfl
@[simp] theorem completeDecode_config (s : State) : (completeDecode s).config = s.config := rfl
@[simp] theorem completeDecode_pending (s : State) : (completeDecode s).pending = s.pending := rfl
@[simp] theorem completeDecode_readData (s : State) : (completeDecode s).readData = s.readData := rfl
@[simp] theorem completeDecode_freeCount (s : State) : (completeDecode s).freeCount = s.freeCount := rfl
@[simp] theorem completeDecode_resetEpoch (s : State) : (completeDecode s).resetEpoch = s.resetEpoch := rfl
@[simp] theorem completeDecode_outEpoch (s : State) : (completeDecode s).outEpoch = s.outEpoch := rfl

@[simp] theorem beginPacked_engine (form : CodeForm) (s : State) : (beginPacked form s).engine = s.engine := rfl
@[simp] theorem beginPacked_err (form : CodeForm) (s : State) : (beginPacked form s).err = s.err := rfl
@[simp] theorem beginPacked_cause (form : CodeForm) (s : State) : (beginPacked form s).cause = s.cause := rfl
@[simp] theorem beginPacked_vcount (form : CodeForm) (s : State) : (beginPacked form s).vcount = s.vcount := rfl
@[simp] theorem beginPacked_vsize (form : CodeForm) (s : State) : (beginPacked form s).vsize = s.vsize := rfl
@[simp] theorem beginPacked_inlen (form : CodeForm) (s : State) : (beginPacked form s).inlen = s.inlen := rfl
@[simp] theorem beginPacked_cur (form : CodeForm) (s : State) : (beginPacked form s).cur = s.cur := rfl
@[simp] theorem beginPacked_voff (form : CodeForm) (s : State) : (beginPacked form s).voff = s.voff := rfl
@[simp] theorem beginPacked_bsize (form : CodeForm) (s : State) : (beginPacked form s).bsize = s.bsize := rfl
@[simp] theorem beginPacked_bcount (form : CodeForm) (s : State) : (beginPacked form s).bcount = s.bcount := rfl
@[simp] theorem beginPacked_n (form : CodeForm) (s : State) : (beginPacked form s).n = s.n := rfl
@[simp] theorem beginPacked_k (form : CodeForm) (s : State) : (beginPacked form s).k = s.k := rfl
@[simp] theorem beginPacked_hdr (form : CodeForm) (s : State) : (beginPacked form s).hdr = s.hdr := rfl
@[simp] theorem beginPacked_g (form : CodeForm) (s : State) : (beginPacked form s).g = s.g := rfl
@[simp] theorem beginPacked_lastv (form : CodeForm) (s : State) : (beginPacked form s).lastv = s.lastv := rfl
@[simp] theorem beginPacked_col (form : CodeForm) (s : State) : (beginPacked form s).col = s.col := rfl
@[simp] theorem beginPacked_blk (form : CodeForm) (s : State) : (beginPacked form s).blk = s.blk := rfl
@[simp] theorem beginPacked_inBuf (form : CodeForm) (s : State) : (beginPacked form s).inBuf = s.inBuf := rfl
@[simp] theorem beginPacked_outBuf (form : CodeForm) (s : State) : (beginPacked form s).outBuf = s.outBuf := rfl
@[simp] theorem beginPacked_rst (form : CodeForm) (s : State) : (beginPacked form s).rst = s.rst := rfl
@[simp] theorem beginPacked_j (form : CodeForm) (s : State) : (beginPacked form s).j = 0 := rfl
@[simp] theorem beginPacked_ov (form : CodeForm) (s : State) : (beginPacked form s).ov = s.cur + form.packedBytes := rfl
@[simp] theorem beginPacked_packed (form : CodeForm) (s : State) : (beginPacked form s).packed = s.packed := rfl
@[simp] theorem beginPacked_i (form : CodeForm) (s : State) : (beginPacked form s).i = s.i := rfl
@[simp] theorem beginPacked_p (form : CodeForm) (s : State) : (beginPacked form s).p = s.p := rfl
@[simp] theorem beginPacked_pos (form : CodeForm) (s : State) : (beginPacked form s).pos = .packed := rfl
@[simp] theorem beginPacked_form (form : CodeForm) (s : State) : (beginPacked form s).form = form := rfl
@[simp] theorem beginPacked_config (form : CodeForm) (s : State) : (beginPacked form s).config = s.config := rfl
@[simp] theorem beginPacked_pending (form : CodeForm) (s : State) : (beginPacked form s).pending = s.pending := rfl
@[simp] theorem beginPacked_readData (form : CodeForm) (s : State) : (beginPacked form s).readData = s.readData := rfl
@[simp] theorem beginPacked_freeCount (form : CodeForm) (s : State) : (beginPacked form s).freeCount = s.freeCount := rfl
@[simp] theorem beginPacked_resetEpoch (form : CodeForm) (s : State) : (beginPacked form s).resetEpoch = s.resetEpoch := rfl
@[simp] theorem beginPacked_outEpoch (form : CodeForm) (s : State) : (beginPacked form s).outEpoch = s.outEpoch := rfl

@[simp] theorem escapeCode_engine (form : CodeForm) (s : State) : (escapeCode form s).engine = s.engine := rfl
@[simp] theorem escapeCode_err (form : CodeForm) (s : State) : (escapeCode form s).err = s.err := rfl
@[simp] theorem escapeCode_cause (form : CodeForm) (s : State) : (escapeCode form s).cause = s.cause := rfl
@[simp] theorem escapeCode_vcount (form : CodeForm) (s : State) : (escapeCode form s).vcount = s.vcount := rfl
@[simp] theorem escapeCode_vsize (form : CodeForm) (s : State) : (escapeCode form s).vsize = s.vsize := rfl
@[simp] theorem escapeCode_inlen (form : CodeForm) (s : State) : (escapeCode form s).inlen = s.inlen := rfl
@[simp] theorem escapeCode_cur (form : CodeForm) (s : State) : (escapeCode form s).cur = s.cur := rfl
@[simp] theorem escapeCode_voff (form : CodeForm) (s : State) : (escapeCode form s).voff = s.voff := rfl
@[simp] theorem escapeCode_bsize (form : CodeForm) (s : State) : (escapeCode form s).bsize = s.bsize := rfl
@[simp] theorem escapeCode_bcount (form : CodeForm) (s : State) : (escapeCode form s).bcount = s.bcount := rfl
@[simp] theorem escapeCode_n (form : CodeForm) (s : State) : (escapeCode form s).n = s.n := rfl
@[simp] theorem escapeCode_k (form : CodeForm) (s : State) : (escapeCode form s).k = s.k := rfl
@[simp] theorem escapeCode_hdr (form : CodeForm) (s : State) : (escapeCode form s).hdr = s.hdr := rfl
@[simp] theorem escapeCode_g (form : CodeForm) (s : State) : (escapeCode form s).g = s.g := rfl
@[simp] theorem escapeCode_lastv (form : CodeForm) (s : State) : (escapeCode form s).lastv = s.lastv := rfl
@[simp] theorem escapeCode_col (form : CodeForm) (s : State) : (escapeCode form s).col = s.col := rfl
@[simp] theorem escapeCode_blk (form : CodeForm) (s : State) : (escapeCode form s).blk = s.blk := rfl
@[simp] theorem escapeCode_inBuf (form : CodeForm) (s : State) : (escapeCode form s).inBuf = s.inBuf := rfl
@[simp] theorem escapeCode_outBuf (form : CodeForm) (s : State) : (escapeCode form s).outBuf = s.outBuf := rfl
@[simp] theorem escapeCode_rst (form : CodeForm) (s : State) : (escapeCode form s).rst = s.rst := rfl
@[simp] theorem escapeCode_j (form : CodeForm) (s : State) : (escapeCode form s).j = s.j := rfl
@[simp] theorem escapeCode_ov (form : CodeForm) (s : State) : (escapeCode form s).ov = s.ov := rfl
@[simp] theorem escapeCode_packed (form : CodeForm) (s : State) : (escapeCode form s).packed = s.packed := rfl
@[simp] theorem escapeCode_i (form : CodeForm) (s : State) : (escapeCode form s).i = s.i := rfl
@[simp] theorem escapeCode_p (form : CodeForm) (s : State) : (escapeCode form s).p = s.p := rfl
@[simp] theorem escapeCode_pos (form : CodeForm) (s : State) : (escapeCode form s).pos = .overflow := rfl
@[simp] theorem escapeCode_form (form : CodeForm) (s : State) : (escapeCode form s).form = form := rfl
@[simp] theorem escapeCode_config (form : CodeForm) (s : State) : (escapeCode form s).config = s.config := rfl
@[simp] theorem escapeCode_pending (form : CodeForm) (s : State) : (escapeCode form s).pending = s.pending := rfl
@[simp] theorem escapeCode_readData (form : CodeForm) (s : State) : (escapeCode form s).readData = s.readData := rfl
@[simp] theorem escapeCode_freeCount (form : CodeForm) (s : State) : (escapeCode form s).freeCount = s.freeCount := rfl
@[simp] theorem escapeCode_resetEpoch (form : CodeForm) (s : State) : (escapeCode form s).resetEpoch = s.resetEpoch := rfl
@[simp] theorem escapeCode_outEpoch (form : CodeForm) (s : State) : (escapeCode form s).outEpoch = s.outEpoch := rfl

@[simp] theorem enterColumn_engine (s : State) : (enterColumn s).engine = s.engine := rfl
@[simp] theorem enterColumn_err (s : State) : (enterColumn s).err = s.err := rfl
@[simp] theorem enterColumn_cause (s : State) : (enterColumn s).cause = s.cause := rfl
@[simp] theorem enterColumn_vcount (s : State) : (enterColumn s).vcount = s.vcount := rfl
@[simp] theorem enterColumn_vsize (s : State) : (enterColumn s).vsize = s.vsize := rfl
@[simp] theorem enterColumn_inlen (s : State) : (enterColumn s).inlen = s.inlen := rfl
@[simp] theorem enterColumn_cur (s : State) : (enterColumn s).cur = s.cur + headerBytes (s.n / 16) := rfl
@[simp] theorem enterColumn_voff (s : State) : (enterColumn s).voff = s.voff := rfl
@[simp] theorem enterColumn_bsize (s : State) : (enterColumn s).bsize = s.bsize := rfl
@[simp] theorem enterColumn_bcount (s : State) : (enterColumn s).bcount = s.bcount := rfl
@[simp] theorem enterColumn_n (s : State) : (enterColumn s).n = s.n := rfl
@[simp] theorem enterColumn_k (s : State) : (enterColumn s).k = s.k := rfl
@[simp] theorem enterColumn_hdr (s : State) : (enterColumn s).hdr = s.cur := rfl
@[simp] theorem enterColumn_g (s : State) : (enterColumn s).g = 0 := rfl
@[simp] theorem enterColumn_lastv (s : State) : (enterColumn s).lastv = s.lastv := rfl
@[simp] theorem enterColumn_col (s : State) : (enterColumn s).col = s.col := rfl
@[simp] theorem enterColumn_blk (s : State) : (enterColumn s).blk = s.blk := rfl
@[simp] theorem enterColumn_inBuf (s : State) : (enterColumn s).inBuf = s.inBuf := rfl
@[simp] theorem enterColumn_outBuf (s : State) : (enterColumn s).outBuf = s.outBuf := rfl
@[simp] theorem enterColumn_rst (s : State) : (enterColumn s).rst = s.rst := rfl
@[simp] theorem enterColumn_j (s : State) : (enterColumn s).j = s.j := rfl
@[simp] theorem enterColumn_ov (s : State) : (enterColumn s).ov = s.ov := rfl
@[simp] theorem enterColumn_packed (s : State) : (enterColumn s).packed = s.packed := rfl
@[simp] theorem enterColumn_i (s : State) : (enterColumn s).i = s.i := rfl
@[simp] theorem enterColumn_p (s : State) : (enterColumn s).p = s.p := rfl
@[simp] theorem enterColumn_pos (s : State) : (enterColumn s).pos = .group := rfl
@[simp] theorem enterColumn_form (s : State) : (enterColumn s).form = s.form := rfl
@[simp] theorem enterColumn_config (s : State) : (enterColumn s).config = s.config := rfl
@[simp] theorem enterColumn_pending (s : State) : (enterColumn s).pending = s.pending := rfl
@[simp] theorem enterColumn_readData (s : State) : (enterColumn s).readData = s.readData := rfl
@[simp] theorem enterColumn_freeCount (s : State) : (enterColumn s).freeCount = s.freeCount := rfl
@[simp] theorem enterColumn_resetEpoch (s : State) : (enterColumn s).resetEpoch = s.resetEpoch := rfl
@[simp] theorem enterColumn_outEpoch (s : State) : (enterColumn s).outEpoch = s.outEpoch := rfl

@[simp] theorem committed_engine (s : State) : (committed s).engine = s.engine := rfl
@[simp] theorem committed_err (s : State) : (committed s).err = s.err := rfl
@[simp] theorem committed_cause (s : State) : (committed s).cause = s.cause := rfl
@[simp] theorem committed_vcount (s : State) : (committed s).vcount = s.vcount := rfl
@[simp] theorem committed_vsize (s : State) : (committed s).vsize = s.vsize := rfl
@[simp] theorem committed_inlen (s : State) : (committed s).inlen = s.inlen := rfl
@[simp] theorem committed_cur (s : State) : (committed s).cur = s.cur := rfl
@[simp] theorem committed_voff (s : State) : (committed s).voff = s.voff + s.bcount := rfl
@[simp] theorem committed_bsize (s : State) : (committed s).bsize = s.bsize := rfl
@[simp] theorem committed_bcount (s : State) : (committed s).bcount = s.bcount := rfl
@[simp] theorem committed_n (s : State) : (committed s).n = s.n := rfl
@[simp] theorem committed_k (s : State) : (committed s).k = s.k := rfl
@[simp] theorem committed_hdr (s : State) : (committed s).hdr = s.hdr := rfl
@[simp] theorem committed_g (s : State) : (committed s).g = s.g := rfl
@[simp] theorem committed_lastv (s : State) : (committed s).lastv = s.lastv.putRun 0 (s.blkRun (s.vsize.toNat * (s.bcount - 1)) s.vsize.toNat) := rfl
@[simp] theorem committed_col (s : State) : (committed s).col = s.col := rfl
@[simp] theorem committed_blk (s : State) : (committed s).blk = s.blk := rfl
@[simp] theorem committed_inBuf (s : State) : (committed s).inBuf = s.inBuf := rfl
@[simp] theorem committed_outBuf (s : State) : (committed s).outBuf = s.outBuf.putRun (s.voff * s.vsize.toNat) (s.blkRun 0 (s.bcount * s.vsize.toNat)) := rfl
@[simp] theorem committed_rst (s : State) : (committed s).rst = s.rst := rfl
@[simp] theorem committed_j (s : State) : (committed s).j = s.j := rfl
@[simp] theorem committed_ov (s : State) : (committed s).ov = s.ov := rfl
@[simp] theorem committed_packed (s : State) : (committed s).packed = s.packed := rfl
@[simp] theorem committed_i (s : State) : (committed s).i = s.i := rfl
@[simp] theorem committed_p (s : State) : (committed s).p = s.p := rfl
@[simp] theorem committed_pos (s : State) : (committed s).pos = .blockLoop := rfl
@[simp] theorem committed_form (s : State) : (committed s).form = s.form := rfl
@[simp] theorem committed_config (s : State) : (committed s).config = s.config := rfl
@[simp] theorem committed_pending (s : State) : (committed s).pending = s.pending := rfl
@[simp] theorem committed_readData (s : State) : (committed s).readData = s.readData := rfl
@[simp] theorem committed_freeCount (s : State) : (committed s).freeCount = s.freeCount := rfl
@[simp] theorem committed_resetEpoch (s : State) : (committed s).resetEpoch = s.resetEpoch := rfl
@[simp] theorem committed_outEpoch (s : State) : (committed s).outEpoch = s.outEpoch := rfl

@[simp] theorem chooseOutcome_engine (count : Nat) (s : State) : (chooseOutcome count s).engine = s.engine := rfl
@[simp] theorem chooseOutcome_err (count : Nat) (s : State) : (chooseOutcome count s).err = s.err := rfl
@[simp] theorem chooseOutcome_cause (count : Nat) (s : State) : (chooseOutcome count s).cause = s.cause := rfl
@[simp] theorem chooseOutcome_vcount (count : Nat) (s : State) : (chooseOutcome count s).vcount = s.vcount := rfl
@[simp] theorem chooseOutcome_vsize (count : Nat) (s : State) : (chooseOutcome count s).vsize = s.vsize := rfl
@[simp] theorem chooseOutcome_inlen (count : Nat) (s : State) : (chooseOutcome count s).inlen = s.inlen := rfl
@[simp] theorem chooseOutcome_cur (count : Nat) (s : State) : (chooseOutcome count s).cur = s.cur := rfl
@[simp] theorem chooseOutcome_voff (count : Nat) (s : State) : (chooseOutcome count s).voff = s.voff := rfl
@[simp] theorem chooseOutcome_bsize (count : Nat) (s : State) : (chooseOutcome count s).bsize = s.bsize := rfl
@[simp] theorem chooseOutcome_bcount (count : Nat) (s : State) : (chooseOutcome count s).bcount = s.bcount := rfl
@[simp] theorem chooseOutcome_n (count : Nat) (s : State) : (chooseOutcome count s).n = s.n := rfl
@[simp] theorem chooseOutcome_k (count : Nat) (s : State) : (chooseOutcome count s).k = s.k := rfl
@[simp] theorem chooseOutcome_hdr (count : Nat) (s : State) : (chooseOutcome count s).hdr = s.hdr := rfl
@[simp] theorem chooseOutcome_g (count : Nat) (s : State) : (chooseOutcome count s).g = s.g := rfl
@[simp] theorem chooseOutcome_lastv (count : Nat) (s : State) : (chooseOutcome count s).lastv = s.lastv := rfl
@[simp] theorem chooseOutcome_col (count : Nat) (s : State) : (chooseOutcome count s).col = s.col := rfl
@[simp] theorem chooseOutcome_blk (count : Nat) (s : State) : (chooseOutcome count s).blk = s.blk := rfl
@[simp] theorem chooseOutcome_inBuf (count : Nat) (s : State) : (chooseOutcome count s).inBuf = s.inBuf := rfl
@[simp] theorem chooseOutcome_outBuf (count : Nat) (s : State) : (chooseOutcome count s).outBuf = s.outBuf := rfl
@[simp] theorem chooseOutcome_rst (count : Nat) (s : State) : (chooseOutcome count s).rst = s.rst := rfl
@[simp] theorem chooseOutcome_j (count : Nat) (s : State) : (chooseOutcome count s).j = s.j := rfl
@[simp] theorem chooseOutcome_ov (count : Nat) (s : State) : (chooseOutcome count s).ov = s.ov := rfl
@[simp] theorem chooseOutcome_packed (count : Nat) (s : State) : (chooseOutcome count s).packed = s.packed := rfl
@[simp] theorem chooseOutcome_i (count : Nat) (s : State) : (chooseOutcome count s).i = s.i := rfl
@[simp] theorem chooseOutcome_p (count : Nat) (s : State) : (chooseOutcome count s).p = s.p := rfl
@[simp] theorem chooseOutcome_pos (count : Nat) (s : State) : (chooseOutcome count s).pos = s.pos := rfl
@[simp] theorem chooseOutcome_form (count : Nat) (s : State) : (chooseOutcome count s).form = s.form := rfl
@[simp] theorem chooseOutcome_config (count : Nat) (s : State) : (chooseOutcome count s).config = s.config := rfl
@[simp] theorem chooseOutcome_pending (count : Nat) (s : State) : (chooseOutcome count s).pending = outcomeReads count s.readData ++ s.pending := rfl
@[simp] theorem chooseOutcome_readData (count : Nat) (s : State) : (chooseOutcome count s).readData = s.readData := rfl
@[simp] theorem chooseOutcome_freeCount (count : Nat) (s : State) : (chooseOutcome count s).freeCount = s.freeCount := rfl
@[simp] theorem chooseOutcome_resetEpoch (count : Nat) (s : State) : (chooseOutcome count s).resetEpoch = s.resetEpoch := rfl
@[simp] theorem chooseOutcome_outEpoch (count : Nat) (s : State) : (chooseOutcome count s).outEpoch = s.outEpoch := rfl

end Sys2Proof.Machine
end

