-- ==== Sys2Proof/Laws/Memory.lean ====
section
/-! SUPPORT. The laws of Memory: read after write, canonical form kept, bounds kept; and the same for the cells of State. -/

namespace Sys2Proof.Machine

theorem Memory.get?_put_self (m : Memory) (a : Nat) (v : Byte) : (m.put a v).get? a = some v := by
  induction m with
  | nil => simp [Memory.put, Memory.get?]
  | cons c rest ih =>
    obtain ⟨x, b⟩ := c
    rcases lt_trichotomy a x with h | h | h
    · simp [Memory.put, Memory.get?, h]
    · simp [Memory.put, Memory.get?, h]
    · simp [Memory.put, Memory.get?, Nat.not_lt_of_gt h, h.ne', h.ne, ih]

theorem Memory.get?_put_other (m : Memory) {a x : Nat} (v : Byte) (h : x ≠ a) :
    (m.put a v).get? x = m.get? x := by
  induction m with
  | nil => simp [Memory.put, Memory.get?, h.symm]
  | cons c rest ih =>
    obtain ⟨y, b⟩ := c
    simp only [Memory.put]
    split
    · simp [Memory.get?, h.symm]
    · split
      · next h2 => subst h2; simp [Memory.get?, h.symm]
      · simp only [Memory.get?, ih]

/-- Canonical form as a statement about pairs: the addresses strictly rise. -/
theorem Memory.wf_iff (m : Memory) : m.wf = true ↔ m.Pairwise (fun c d => c.1 < d.1) := by
  induction m with
  | nil => simp [Memory.wf]
  | cons c rest ih =>
    cases rest with
    | nil => simp [Memory.wf]
    | cons d rest =>
      simp only [Memory.wf, Bool.and_eq_true, decide_eq_true_eq, ih]
      constructor
      · rintro ⟨h, hp⟩
        refine List.pairwise_cons.2 ⟨fun e he => ?_, hp⟩
        rcases List.mem_cons.1 he with rfl | he
        · exact h
        · exact h.trans ((List.pairwise_cons.1 hp).1 e he)
      · intro hp
        exact ⟨(List.pairwise_cons.1 hp).1 d (List.mem_cons_self ..), (List.pairwise_cons.1 hp).2⟩

theorem Memory.mem_put {m : Memory} {a : Nat} {v : Byte} {c : Host.Cell} (h : c ∈ m.put a v) : c = (a, v) ∨ c ∈ m := by
  induction m with
  | nil => simp [Memory.put] at h; exact .inl h
  | cons d rest ih =>
    obtain ⟨x, b⟩ := d
    simp only [Memory.put] at h
    split at h
    · rcases List.mem_cons.1 h with h | h
      · exact .inl h
      · exact .inr h
    · split at h
      · rcases List.mem_cons.1 h with h | h
        · exact .inl h
        · exact .inr (List.mem_cons_of_mem _ h)
      · rcases List.mem_cons.1 h with h | h
        · exact .inr (h ▸ List.mem_cons_self ..)
        · exact (ih h).imp id (List.mem_cons_of_mem _)

/-- A write keeps the canonical form. -/
theorem Memory.wf_put {m : Memory} (a : Nat) (v : Byte) (h : m.wf = true) : (m.put a v).wf = true := by
  rw [Memory.wf_iff] at h ⊢
  induction m with
  | nil => simp [Memory.put]
  | cons c rest ih =>
    obtain ⟨x, b⟩ := c
    obtain ⟨hx, hr⟩ := List.pairwise_cons.1 h
    simp only [Memory.put]
    split
    · next hlt =>
      refine List.pairwise_cons.2 ⟨fun e he => ?_, h⟩
      rcases List.mem_cons.1 he with rfl | he
      · exact hlt
      · exact hlt.trans (hx e he)
    · next hnlt =>
      split
      · next heq => subst heq; exact List.pairwise_cons.2 ⟨hx, hr⟩
      · next hne =>
        refine List.pairwise_cons.2 ⟨fun e he => ?_, ih hr⟩
        rcases Memory.mem_put he with rfl | he
        · change x < a; omega
        · exact hx e he

/-- A write to a cell below the bound keeps the bound. -/
theorem Memory.below_put {m : Memory} {bound a : Nat} (v : Byte) (h : m.below bound) (ha : a < bound) :
    (m.put a v).below bound := by
  intro c hc
  rcases Memory.mem_put hc with rfl | hc
  · exact ha
  · exact h c hc

theorem Memory.wf_putRun {m : Memory} (a : Nat) (vs : List Byte) (h : m.wf = true) : (m.putRun a vs).wf = true := by
  induction vs generalizing m a with
  | nil => simpa [Memory.putRun] using h
  | cons v vs ih => exact ih _ (Memory.wf_put _ _ h)

/-- A run of bytes writes the addresses `a .. a + length - 1` and no other. -/
theorem Memory.get?_putRun_outside (m : Memory) (a x : Nat) (vs : List Byte) (h : x < a ∨ a + vs.length ≤ x) :
    (m.putRun a vs).get? x = m.get? x := by
  induction vs generalizing m a with
  | nil => simp [Memory.putRun]
  | cons v vs ih =>
    simp only [List.length_cons] at h
    rw [Memory.putRun, ih _ _ (by omega), Memory.get?_put_other _ _ (by omega)]

/-- A run of bytes: address `a + t` holds byte `t`. -/
theorem Memory.get?_putRun_inside (m : Memory) (a : Nat) (vs : List Byte) (t : Nat) (h : t < vs.length) :
    (m.putRun a vs).get? (a + t) = some vs[t] := by
  induction vs generalizing m a t with
  | nil => simp at h
  | cons v vs ih =>
    rw [Memory.putRun]
    cases t with
    | zero => rw [Memory.get?_putRun_outside _ _ _ _ (by omega), Nat.add_zero, Memory.get?_put_self]; rfl
    | succ t =>
      rw [show a + (t + 1) = a + 1 + t by omega, ih _ _ _ (by simpa using h)]
      rfl

theorem Memory.mem_putRun {m : Memory} {a : Nat} {vs : List Byte} {c : Host.Cell} (h : c ∈ m.putRun a vs) :
    (a ≤ c.1 ∧ c.1 < a + vs.length) ∨ c ∈ m := by
  induction vs generalizing m a with
  | nil => exact .inr h
  | cons v vs ih =>
    rcases ih h with h' | h'
    · exact .inl ⟨by omega, by simp only [List.length_cons]; omega⟩
    · rcases Memory.mem_put h' with rfl | h'
      · exact .inl ⟨le_rfl, by simp⟩
      · exact .inr h'

theorem Memory.below_putRun {m : Memory} {bound a : Nat} {vs : List Byte} (h : m.below bound)
    (ha : a + vs.length ≤ bound) : (m.putRun a vs).below bound := by
  intro c hc
  rcases Memory.mem_putRun hc with ⟨_, h2⟩ | hc
  · omega
  · exact h c hc

@[simp] theorem State.blkRun_length (s : State) (a count : Nat) : (s.blkRun a count).length = count := by
  simp [State.blkRun]

/-! ### Cells of State after the named writes -/

theorem State.cell_eq (s : State) (bank : Bank) (a : Nat) :
    s.cell bank a = ((s.bank bank).get? a).getD (s.unlisted bank a) := by
  unfold State.cell; cases (s.bank bank).get? a <;> rfl

/-- A bank reads as before where its list and the epochs are the same. -/
theorem State.cell_congr {s t : State} {bank : Bank} (hb : t.bank bank = s.bank bank)
    (hr : t.resetEpoch = s.resetEpoch) (ho : t.outEpoch = s.outEpoch) (a : Nat) : t.cell bank a = s.cell bank a := by
  simp only [State.cell_eq, hb]
  cases bank <;> simp [State.unlisted, hr, ho]

@[simp] theorem writeCol_cell_self (s : State) (a : Nat) (v : Byte) : (s.writeCol a v).cell .col a = v := by
  simp [State.cell_eq, State.bank, Memory.get?_put_self]

theorem writeCol_cell_other (s : State) {a x : Nat} (v : Byte) (bank : Bank) (h : bank = .col → x ≠ a) :
    (s.writeCol a v).cell bank x = s.cell bank x := by
  cases bank <;> simp [State.cell_eq, State.bank, State.unlisted]
  rw [Memory.get?_put_other _ _ (h rfl)]

@[simp] theorem writeBlk_cell_self (s : State) (a : Nat) (v : Byte) : (s.writeBlk a v).cell .blk a = v := by
  simp [State.cell_eq, State.bank, Memory.get?_put_self]

theorem writeBlk_cell_other (s : State) {a x : Nat} (v : Byte) (bank : Bank) (h : bank = .blk → x ≠ a) :
    (s.writeBlk a v).cell bank x = s.cell bank x := by
  cases bank <;> simp [State.cell_eq, State.bank, State.unlisted]
  rw [Memory.get?_put_other _ _ (h rfl)]

@[simp] theorem writeLastv_cell_self (s : State) (a : Nat) (v : Byte) : (s.writeLastv a v).cell .lastv a = v := by
  simp [State.cell_eq, State.bank, Memory.get?_put_self]

theorem writeLastv_cell_other (s : State) {a x : Nat} (v : Byte) (bank : Bank) (h : bank = .lastv → x ≠ a) :
    (s.writeLastv a v).cell bank x = s.cell bank x := by
  cases bank <;> simp [State.cell_eq, State.bank, State.unlisted]
  rw [Memory.get?_put_other _ _ (h rfl)]

@[simp] theorem writeIn_cell_self (s : State) (a : Nat) (v : Byte) : (s.writeIn a v).cell .input a = v := by
  simp [State.cell_eq, State.bank, Memory.get?_put_self]

theorem writeIn_cell_other (s : State) {a x : Nat} (v : Byte) (bank : Bank) (h : bank = .input → x ≠ a) :
    (s.writeIn a v).cell bank x = s.cell bank x := by
  cases bank <;> simp [State.cell_eq, State.bank, State.unlisted]
  rw [Memory.get?_put_other _ _ (h rfl)]

/-- Every array and buffer is in canonical form right after reset. -/
theorem reset_bank_wf (bank : Bank) : (State.reset.bank bank).wf = true := by cases bank <;> rfl

end Sys2Proof.Machine
end

