-- ==== Sys2Proof/Laws/Ops.lean ====
section
/-! SUPPORT. One lemma for each shared operation, saying once what it can do; proofs cite these and do not unfold it. -/

namespace Sys2Proof.Machine

theorem SameCells.refl (bank : Bank) (s : State) : SameCells bank s s := fun _ => rfl

/-- Two states that differ only in the engine's place and the counters inside a column. -/
theorem sameInGroup_of_eqs {s t : State}
    (h : t.vcount = s.vcount ∧ t.vsize = s.vsize ∧ t.inlen = s.inlen ∧ t.config = s.config ∧ t.rst = s.rst ∧
      t.pending = s.pending ∧ t.readData = s.readData ∧ t.freeCount = s.freeCount)
    (hs : t.engine = s.engine ∧ t.err = s.err ∧ t.cause = s.cause)
    (hb : t.voff = s.voff ∧ t.bsize = s.bsize ∧ t.bcount = s.bcount ∧ t.n = s.n ∧ t.hdr = s.hdr) (hk : t.k = s.k)
    (hm : t.lastv = s.lastv ∧ t.blk = s.blk ∧ t.inBuf = s.inBuf ∧ t.outBuf = s.outBuf)
    (he : t.resetEpoch = s.resetEpoch ∧ t.outEpoch = s.outEpoch) : SameInGroup s t :=
  ⟨⟨h, hs, State.cell_congr hm.2.2.1 he.1 he.2, State.cell_congr hm.2.2.2 he.1 he.2⟩, hb, hk,
    State.cell_congr hm.1 he.1 he.2, State.cell_congr hm.2.1 he.1 he.2⟩

/-! ### Loops over groups and codes -/

/-- What the end of a group changes: the cursor, the group number or the delta pass's variables, the place. -/
theorem endGroup_cases (a' : Nat) (s : State) :
    (s.g + 1 < s.n / 16 ∧ endGroup a' s = { s with cur := a', g := s.g + 1, pos := .group }) ∨
    (¬ s.g + 1 < s.n / 16 ∧
      endGroup a' s = { s with cur := a', i := 0, p := s.cell .lastv s.k, pos := .residual }) := by
  unfold endGroup
  by_cases h : s.g + 1 < s.n / 16
  · exact .inl ⟨h, by simp [h]⟩
  · exact .inr ⟨h, by simp [h]⟩

theorem endGroup_afterGroup (a' : Nat) (s : State) : AfterGroup a' s (endGroup a' s) := by
  rcases endGroup_cases a' s with ⟨h, e⟩ | ⟨h, e⟩ <;> rw [e] <;> simp [AfterGroup, h]

theorem endGroup_sameInGroup (a' : Nat) (s : State) : SameInGroup s (endGroup a' s) := by
  rcases endGroup_cases a' s with ⟨_, e⟩ | ⟨_, e⟩ <;> rw [e] <;> apply sameInGroup_of_eqs <;> simp

@[simp] theorem endGroup_col (a' : Nat) (s : State) : (endGroup a' s).col = s.col := by
  rcases endGroup_cases a' s with ⟨_, e⟩ | ⟨_, e⟩ <;> rw [e]

/-- What the end of a residual of a packed group changes. -/
theorem nextCode_cases (form : CodeForm) (s : State) :
    (s.j + 1 < 16 ∧ nextCode form s =
      { s with j := s.j + 1, pos := if (s.j + 1) % form.perByte = 0 then .packed else .code }) ∨
    (¬ s.j + 1 < 16 ∧ nextCode form s = endGroup s.ov s) := by
  unfold nextCode
  by_cases h : s.j + 1 < 16
  · exact .inl ⟨h, by simp [h]⟩
  · exact .inr ⟨h, by simp [h]⟩

theorem nextCode_sameInGroup (form : CodeForm) (s : State) : SameInGroup s (nextCode form s) := by
  rcases nextCode_cases form s with ⟨_, e⟩ | ⟨_, e⟩ <;> rw [e]
  · apply sameInGroup_of_eqs <;> simp
  · exact endGroup_sameInGroup _ _

@[simp] theorem nextCode_col (form : CodeForm) (s : State) : (nextCode form s).col = s.col := by
  rcases nextCode_cases form s with ⟨_, e⟩ | ⟨_, e⟩ <;> rw [e]; simp

theorem nextCode_afterResidual (form : CodeForm) (s : State) : AfterResidual form s.ov s (nextCode form s) := by
  rcases nextCode_cases form s with ⟨h, e⟩ | ⟨h, e⟩ <;> rw [e]
  · simp [AfterResidual, h]
  · refine ⟨?_, fun h' => absurd h' h, fun _ => endGroup_afterGroup _ _⟩
    rcases endGroup_cases s.ov s with ⟨_, e⟩ | ⟨_, e⟩ <;> rw [e]

/-! ### The delta pass -/

/-- The three ways a delta step goes on; in each the value is stored in `BLK[i * VSIZE + k]` and becomes the predictor. -/
theorem deltaStep_cases (d : Byte) (s : State) :
    let t := { s.writeBlk (s.i * s.vsize.toNat + s.k) (d + s.p) with p := d + s.p }
    (s.i + 1 < s.bcount ∧ deltaStep d s = { t with i := s.i + 1 }) ∨
    (¬ s.i + 1 < s.bcount ∧ s.k + 1 < s.vsize.toNat ∧ deltaStep d s = { t with k := s.k + 1, pos := .column }) ∨
    (¬ s.i + 1 < s.bcount ∧ ¬ s.k + 1 < s.vsize.toNat ∧ deltaStep d s = { t with pos := .commit }) := by
  unfold deltaStep
  by_cases h : s.i + 1 < s.bcount
  · exact .inl ⟨h, by simp [h]⟩
  · by_cases h2 : s.k + 1 < s.vsize.toNat
    · exact .inr (.inl ⟨h, h2, by simp [h, h2]⟩)
    · exact .inr (.inr ⟨h, h2, by simp [h, h2]⟩)

/-! ### The sequencer -/

/-- The outcomes of the operand checks, in the order of R169. -/
theorem checkOperands_cases (s : State) :
    ((s.vsize.toNat < 1 ∨ 256 < s.vsize.toNat) ∧ checkOperands s = takeException .vsizeRange s) ∨
    ((1 ≤ s.vsize.toNat ∧ s.vsize.toNat ≤ 256) ∧ s.vsize.toNat % 4 ≠ 0 ∧
      checkOperands s = takeException .vsizeAlign s) ∨
    ((1 ≤ s.vsize.toNat ∧ s.vsize.toNat ≤ 256) ∧ s.vsize.toNat % 4 = 0 ∧ s.inlen.toNat < 1 + s.vsize.toNat ∧
      checkOperands s = takeException .shortBuffer s) ∨
    (OperandsChecked s ∧ checkOperands s = { s with cur := 0, pos := .tag }) := by
  unfold checkOperands OperandsChecked
  by_cases h : s.vsize.toNat < 1 ∨ 256 < s.vsize.toNat
  · exact .inl ⟨h, if_pos h⟩
  · rw [if_neg h]
    by_cases h2 : s.vsize.toNat % 4 ≠ 0
    · exact .inr (.inl ⟨by omega, h2, if_pos h2⟩)
    · rw [if_neg h2]
      by_cases h3 : s.inlen.toNat < 1 + s.vsize.toNat
      · exact .inr (.inr (.inl ⟨by omega, by omega, h3, if_pos h3⟩))
      · exact .inr (.inr (.inr ⟨⟨by omega, by omega, by omega, by omega⟩, if_neg h3⟩))

/-- The outcomes of the head of the block loop. -/
theorem enterBlock_cases (s : State) :
    (¬ s.voff < s.vcount.toNat ∧ enterBlock s = completeDecode s) ∨
    (s.voff < s.vcount.toNat ∧ (s.nextBlockCount < 1 ∨ 256 < s.nextBlockCount) ∧
      enterBlock s = takeException .blockCount s) ∨
    (s.voff < s.vcount.toNat ∧ (1 ≤ s.nextBlockCount ∧ s.nextBlockCount ≤ 256) ∧
      enterBlock s =
        { s with bcount := s.nextBlockCount, n := roundUp s.nextBlockCount 16, k := 0, pos := .column }) := by
  unfold enterBlock
  by_cases h : s.voff < s.vcount.toNat
  · rw [if_pos h]
    by_cases h2 : s.nextBlockCount < 1 ∨ 256 < s.nextBlockCount
    · exact .inr (.inl ⟨h, h2, if_pos h2⟩)
    · exact .inr (.inr ⟨h, by omega, if_neg h2⟩)
  · exact .inl ⟨h, if_neg h⟩

/-- A commit that answers a next state. -/
theorem commitBlock_next {s t : State} (h : commitBlock s = .next t) :
    capacityHolds s.config.outCap ((s.voff + s.bcount) * s.vsize.toNat) = true ∧ t = committed s := by
  unfold commitBlock at h
  split at h
  · next hc => exact ⟨hc, (Host.Outcome.next.inj h).symm⟩
  · cases h

/-! ### Turns -/

/-- An element answers the position it is decoded at. -/
theorem decode_slot {p : Slot} {w : Word} {i : Instr} (h : decode p w = .ok i) : i.slot = p := by
  cases p <;> simp only [decode, Except.ok.injEq, decodeSelector, decodeCode2, decodeCode4, decodeResidual, decodeCtrl] at h
  all_goals (try split at h) <;> (first | (subst h; rfl) | (cases h; rfl) | cases h)

/-- The one refusal of the decoder. -/
theorem decode_error {p : Slot} {w : Word} {e : Reject} (h : decode p w = .error e) : p = .tag := by
  cases p <;> simp only [decode] at h <;> first | rfl | cases h

/-- What running an element can do. -/
theorem runElement_cases {s t : State} (h : runElement s = .next t) :
    (∃ slot bits i, s.presented = .element slot bits ∧ decode slot bits = .ok i ∧ i.slot = slot ∧ exec i s = .next t) ∨
    (∃ bits, s.presented = .element .tag bits ∧ t = takeException .badTag s) ∨
    (s.presented = .internal ∧ t = s) := by
  unfold runElement at h
  split at h
  · next slot bits hp =>
    unfold runBits at h
    split at h
    · next i hd => exact .inl ⟨slot, bits, i, hp, hd, decode_slot hd, h⟩
    · next hd =>
      have := decode_error hd
      subst this
      exact .inr (.inl ⟨bits, hp, (Host.Outcome.next.inj h).symm⟩)
  · cases h
  · next hp => exact .inr (.inr ⟨hp, (Host.Outcome.next.inj h).symm⟩)

/-- What one turn of the engine can do. -/
theorem engineTurn_cases {s t : State} (h : engineTurn s = .next t) :
    ((s.rst = true ∨ s.engine ≠ .busy) ∧ t = s) ∨
    (s.rst = false ∧ s.engine = .busy ∧
      ((s.pos = .operands ∧ t = checkOperands s) ∨ (s.pos = .blockLoop ∧ t = enterBlock s) ∨
       (s.pos = .column ∧ t = enterColumn s) ∨ (s.pos = .commit ∧ commitBlock s = .next t) ∨
       (s.pos = .group ∧ s.marginOk = false ∧ t = takeException .tailMargin s) ∨
       ((s.pos = .group → s.marginOk = true) ∧ runElement s = .next t))) := by
  unfold engineTurn at h
  split at h
  · next hc => exact .inl ⟨hc, (Host.Outcome.next.inj h).symm⟩
  · next hc =>
    simp only [not_or, not_not, Bool.not_eq_true] at hc
    refine .inr ⟨hc.1, hc.2, ?_⟩
    cases hp : s.pos <;> simp only [hp] at h <;> simp
    all_goals first
      | exact (Host.Outcome.next.inj h).symm
      | exact h
      | skip
    all_goals try exact .inl (Host.Outcome.next.inj h).symm
    all_goals try exact .inl h
    cases hm : s.marginOk <;> simp [hm] at h ⊢
    · exact h.symm
    · exact h

/-- Whose turn a step is (log 2). -/
theorem step_cases {s t : State} (h : step s = .next t) :
    (s.pending = [] ∧ engineTurn s = .next t) ∨
    (∃ rest, s.pending = .await :: rest ∧ s.engine = .busy ∧ engineTurn s = .next t) ∨
    (∃ op rest, s.pending = op :: rest ∧ hostAccess op { s with pending := rest } = .next t) := by
  unfold step turn at h
  split at h
  · next hp => exact .inl ⟨hp, h⟩
  · next rest hp =>
    split at h
    · next hb => exact .inr (.inl ⟨rest, hp, hb, h⟩)
    · exact .inr (.inr ⟨.await, rest, hp, h⟩)
  · next op rest _ hp => exact .inr (.inr ⟨op, rest, hp, h⟩)

/-- With the engine's every turn its own, a step is a turn of the engine. -/
theorem step_running {s : State} (h : Running s) : step s = engineTurn s := by
  unfold step turn; rw [h.2.2]

end Sys2Proof.Machine
end

