-- ==== Sys2Proof/Laws/PerInstr.lean ====
section
/-! SUPPORT. A fact about every element as syntax, one lemma per constructor: its encoding fits the width of its position. -/

namespace Sys2Proof.Laws.EncodeFits

/-- The bits of an element fit the width of the position where it stands (R97). -/
def Statement (i : Instr) : Prop := (encode i).toNat < 2 ^ i.slot.width

theorem tag : Statement .tag := by unfold Statement; decide

theorem hdr (a : BitVec 2) (b : BitVec 2) (c : BitVec 2) (d : BitVec 2) : Statement (.hdr a b c d) := by
  have h := (d ++ c ++ b ++ a : BitVec 8).isLt
  simp only [Statement, Instr.slot, Slot.width, encode, BitVec.toNat_setWidth]; omega

theorem grpZ : Statement .grpZ := by unfold Statement; decide

theorem grpB2 : Statement .grpB2 := by unfold Statement; decide

theorem grpB4 : Statement .grpB4 := by unfold Statement; decide

theorem grpB8 : Statement .grpB8 := by unfold Statement; decide

theorem pack2 (a : BitVec 2) (b : BitVec 2) (c : BitVec 2) (d : BitVec 2) : Statement (.pack2 a b c d) := by
  have h := (a ++ b ++ c ++ d : BitVec 8).isLt
  simp only [Statement, Instr.slot, Slot.width, encode, BitVec.toNat_setWidth]; omega

theorem pack4 (a : BitVec 4) (b : BitVec 4) : Statement (.pack4 a b) := by
  have h := (a ++ b : BitVec 8).isLt
  simp only [Statement, Instr.slot, Slot.width, encode, BitVec.toNat_setWidth]; omega

theorem c2Lit0 : Statement .c2Lit0 := by unfold Statement; decide

theorem c2Lit1 : Statement .c2Lit1 := by unfold Statement; decide

theorem c2Lit2 : Statement .c2Lit2 := by unfold Statement; decide

theorem c2Esc : Statement .c2Esc := by unfold Statement; decide

theorem c4Lit0 : Statement .c4Lit0 := by unfold Statement; decide

theorem c4Lit1 : Statement .c4Lit1 := by unfold Statement; decide

theorem c4Lit2 : Statement .c4Lit2 := by unfold Statement; decide

theorem c4Lit3 : Statement .c4Lit3 := by unfold Statement; decide

theorem c4Lit4 : Statement .c4Lit4 := by unfold Statement; decide

theorem c4Lit5 : Statement .c4Lit5 := by unfold Statement; decide

theorem c4Lit6 : Statement .c4Lit6 := by unfold Statement; decide

theorem c4Lit7 : Statement .c4Lit7 := by unfold Statement; decide

theorem c4Lit8 : Statement .c4Lit8 := by unfold Statement; decide

theorem c4Lit9 : Statement .c4Lit9 := by unfold Statement; decide

theorem c4Lit10 : Statement .c4Lit10 := by unfold Statement; decide

theorem c4Lit11 : Statement .c4Lit11 := by unfold Statement; decide

theorem c4Lit12 : Statement .c4Lit12 := by unfold Statement; decide

theorem c4Lit13 : Statement .c4Lit13 := by unfold Statement; decide

theorem c4Lit14 : Statement .c4Lit14 := by unfold Statement; decide

theorem c4Esc : Statement .c4Esc := by unfold Statement; decide

theorem ovf (v : Byte) : Statement (.ovf v) := by
  simp only [Statement, Instr.slot, Slot.width, encode, BitVec.toNat_setWidth]; omega

theorem raw (v : Byte) : Statement (.raw v) := by
  simp only [Statement, Instr.slot, Slot.width, encode, BitVec.toNat_setWidth]; omega

theorem snap (v : Byte) : Statement (.snap v) := by
  simp only [Statement, Instr.slot, Slot.width, encode, BitVec.toNat_setWidth]; omega

theorem zzPos (m : BitVec 7) : Statement (.zzPos m) := by
  have h := (m ++ 0#1 : BitVec 8).isLt
  simp only [Statement, Instr.slot, Slot.width, encode, BitVec.toNat_setWidth]; omega

theorem zzNeg (m : BitVec 7) : Statement (.zzNeg m) := by
  have h := (m ++ 1#1 : BitVec 8).isLt
  simp only [Statement, Instr.slot, Slot.width, encode, BitVec.toNat_setWidth]; omega

theorem cmdNone (r : BitVec 30) : Statement (.cmdNone r) := by
  simp only [Statement, Instr.slot, Slot.width]; exact BitVec.isLt _

theorem cmdStart (r : BitVec 30) : Statement (.cmdStart r) := by
  simp only [Statement, Instr.slot, Slot.width]; exact BitVec.isLt _

theorem cmdClear (r : BitVec 30) : Statement (.cmdClear r) := by
  simp only [Statement, Instr.slot, Slot.width]; exact BitVec.isLt _

theorem cmdRsvd (r : BitVec 30) : Statement (.cmdRsvd r) := by
  simp only [Statement, Instr.slot, Slot.width]; exact BitVec.isLt _

end Sys2Proof.Laws.EncodeFits
end

