-- ==== Sys2Proof/Tests/Slice0.lean ====
section
/-! SUPPORT. The model's own tests. Expected values are the spec's: the rule or example is named at each. The last section
shows, for every obligation with hypotheses, states and operands that meet them. -/

namespace Sys2Proof.Tests

open Sys2Proof.Machine

/-! ### Well-formedness (R97): an element is refused at a position that is not its own -/

theorem test_wellFormed_accepts_own_position :
    Instr.tag.wellFormedAt .tag = true ∧ (Instr.raw 5#8).wellFormedAt .raw = true ∧
    (Instr.cmdStart 0#30).wellFormedAt .ctrl = true := by decide

theorem test_wellFormed_refuses_other_position :
    Instr.tag.wellFormedAt .raw = false ∧ (Instr.ovf 5#8).wellFormedAt .raw = false ∧
    Instr.grpB2.wellFormedAt .code2 = false ∧ (Instr.hdr 1#2 0#2 0#2 0#2).wellFormedAt .pack2 = false ∧
    (Instr.zzPos 1#7).wellFormedAt .ctrl = false := by decide

/-! ### Decoding: words written out from the patterns of R97 and `opcode_table.json` -/

theorem test_decode_tag : decode .tag 0b10100000#32 = .ok .tag := by decide

/-- R98: "All 255 other values are illegal alike". -/
theorem test_decode_wrong_tag :
    decode .tag 0b10100001#32 = .error .badTag ∧ decode .tag 0b00000000#32 = .error .badTag := by decide

/-- R104: `HDR B2 Z B8` gives 0x31. -/
theorem test_decode_header :
    decode .header 0x31#32 = .ok (.hdr 1#2 0#2 3#2 0#2) ∧
    decode .header 0b10000000#32 = .ok (.hdr 0#2 0#2 0#2 2#2) := by decide

theorem test_decode_selectors :
    decode .selector 0b00#32 = .ok .grpZ ∧ decode .selector 0b01#32 = .ok .grpB2 ∧
    decode .selector 0b10#32 = .ok .grpB4 ∧ decode .selector 0b11#32 = .ok .grpB8 := by decide

theorem test_decode_packed :
    decode .pack2 0b00011011#32 = .ok (.pack2 0#2 1#2 2#2 3#2) ∧
    decode .pack4 0b00001111#32 = .ok (.pack4 0#4 15#4) := by decide

theorem test_decode_code2 :
    decode .code2 0b00#32 = .ok .c2Lit0 ∧ decode .code2 0b01#32 = .ok .c2Lit1 ∧
    decode .code2 0b10#32 = .ok .c2Lit2 ∧ decode .code2 0b11#32 = .ok .c2Esc := by decide

theorem test_decode_code4 :
    decode .code4 0b0000#32 = .ok .c4Lit0 ∧ decode .code4 0b0001#32 = .ok .c4Lit1 ∧
    decode .code4 0b0010#32 = .ok .c4Lit2 ∧ decode .code4 0b0011#32 = .ok .c4Lit3 ∧
    decode .code4 0b0100#32 = .ok .c4Lit4 ∧ decode .code4 0b0101#32 = .ok .c4Lit5 ∧
    decode .code4 0b0110#32 = .ok .c4Lit6 ∧ decode .code4 0b0111#32 = .ok .c4Lit7 ∧
    decode .code4 0b1000#32 = .ok .c4Lit8 ∧ decode .code4 0b1001#32 = .ok .c4Lit9 ∧
    decode .code4 0b1010#32 = .ok .c4Lit10 ∧ decode .code4 0b1011#32 = .ok .c4Lit11 ∧
    decode .code4 0b1100#32 = .ok .c4Lit12 ∧ decode .code4 0b1101#32 = .ok .c4Lit13 ∧
    decode .code4 0b1110#32 = .ok .c4Lit14 ∧ decode .code4 0b1111#32 = .ok .c4Esc := by decide

theorem test_decode_bytes :
    decode .overflow 0b01111111#32 = .ok (.ovf 0x7F#8) ∧ decode .raw 0b11110000#32 = .ok (.raw 0xF0#8) ∧
    decode .snapshot 0b10000000#32 = .ok (.snap 0x80#8) := by decide

theorem test_decode_residuals :
    decode .residual 0b00000010#32 = .ok (.zzPos 1#7) ∧ decode .residual 0b11111110#32 = .ok (.zzPos 127#7) ∧
    decode .residual 0b00000001#32 = .ok (.zzNeg 0#7) ∧ decode .residual 0b11111111#32 = .ok (.zzNeg 127#7) := by
  decide

/-- R29: bits 1:0 select, bits 31:2 are carried and ignored. -/
theorem test_decode_commands :
    decode .ctrl 0x00000000#32 = .ok (.cmdNone 0#30) ∧ decode .ctrl 0x00000001#32 = .ok (.cmdStart 0#30) ∧
    decode .ctrl 0x80000002#32 = .ok (.cmdClear 0x20000000#30) ∧
    decode .ctrl 0x00000003#32 = .ok (.cmdRsvd 0#30) := by decide

/-! ### The host's two questions: a table word decodes, and runs as the first instruction after reset -/

theorem test_table_words :
    decodeTableWord 8 0xA0 = some .tag ∧ decodeTableWord 8 0x02 = some (.zzPos 1#7) ∧
    decodeTableWord 8 0x03 = some (.zzNeg 1#7) ∧ decodeTableWord 2 0b01 = some .grpB2 ∧
    decodeTableWord 4 0b1111 = some .c4Esc ∧ decodeTableWord 32 0 = some (.cmdNone 0#30) ∧
    decodeTableWord 32 1 = some (.cmdStart 0#30) ∧ decodeTableWord 32 2 = some (.cmdClear 0#30) ∧
    decodeTableWord 32 3 = some (.cmdRsvd 0#30) := by decide

theorem test_fetch_tag :
    step (State.reset.withFetchWord 8 0xA0) = exec .tag (State.reset.withFetchWord 8 0xA0) := by rfl

theorem test_fetch_residuals :
    step (State.reset.withFetchWord 8 0x02) = exec (.zzPos 1#7) (State.reset.withFetchWord 8 0x02) ∧
    step (State.reset.withFetchWord 8 0x03) = exec (.zzNeg 1#7) (State.reset.withFetchWord 8 0x03) := by
  constructor <;> rfl

theorem test_fetch_selector_and_code :
    step (State.reset.withFetchWord 2 2) = exec .grpB4 (State.reset.withFetchWord 2 2) ∧
    step (State.reset.withFetchWord 4 14) = exec .c4Lit14 (State.reset.withFetchWord 4 14) := by
  refine ⟨rfl, ?_⟩
  have h : ∀ o : CodeOrder, code4 o (packedByte4 14#4 14#4) 0 = 14#4 := by intro o; cases o <;> decide
  simp only [step, turn, engineTurn, State.withFetchWord, tableSlot]
  simp [State.reset, runElement, State.presented, CodeForm.codeSlot, CodeForm.codeAt, CodeForm.perByte, h, runBits,
    decode, decodeCode4]

theorem test_fetch_commands :
    step (State.reset.withFetchWord 32 1) = exec (.cmdStart 0#30) State.reset ∧
    step (State.reset.withFetchWord 32 2) = exec (.cmdClear 0#30) State.reset := by constructor <;> rfl

/-! ### Small states -/

/-- The parameters of the tests' machine. -/
def config : Config := { codeOrder := .msbFirst, inCap := none, outCap := none }

/-- The machine after reset, with known parameters. -/
def idle : State := { State.reset with config := config }

/-- A decode under way, at a place of the pseudocode: 16 vertices of 4 bytes from a buffer of 37 bytes, the sizes of R185, in
column 0, whose one group begins at address 2. -/
def decoding (pos : Pos) : State :=
  { idle with
    engine := .busy
    vcount := 16#32
    vsize := 4#32
    inlen := 37#32
    bsize := 256
    bcount := 16
    n := 16
    hdr := 1
    cur := 2
    ov := 6
    pos := pos }

/-- The state an outcome goes on in, if it does. -/
def next? : Host.Outcome State Fault Refusal → Option State
  | .next t => some t
  | _ => none

/-- What a function of the state is after an element. -/
def after {α : Type} (i : Instr) (s : State) (f : State → α) : Option α := (next? (exec i s)).map f

/-! ### One step of each element -/

/-- R167: after the tag the block cursor stands at offset 1. -/
theorem test_tag : after .tag { decoding .tag with cur := 0 } (fun t => (t.cur, t.pos)) = some (1, .snapshot) := by
  decide

/-- R138: header 0x31 gives the selectors 1, 0, 3 of groups 0, 1, 2. -/
theorem test_hdr :
    after (.hdr 1#2 0#2 3#2 0#2) (decoding .group) (·.pos) = some (.selector 1#2) ∧
    after (.hdr 1#2 0#2 3#2 0#2) { decoding .group with g := 1 } (·.pos) = some (.selector 0#2) ∧
    after (.hdr 1#2 0#2 3#2 0#2) { decoding .group with g := 2 } (·.pos) = some (.selector 3#2) ∧
    after (.hdr 1#2 0#2 3#2 2#2) { decoding .group with g := 7 } (·.pos) = some (.selector 2#2) := by decide

/-- R111: `a = 5`, any data: sixteen zeros, `a' = 5`. -/
theorem test_grpZ :
    after .grpZ { decoding (.selector 0#2) with cur := 5, col := [(3, 7#8), (16, 9#8)] }
      (fun t => (t.cur, t.cell .col 0, t.cell .col 3, t.cell .col 15, t.cell .col 16)) =
      some (5, 0#8, 0#8, 0#8, 9#8) := by decide

/-- R112, R113: the overflow cursor starts 4, or 8, bytes after the group's start. -/
theorem test_grpB2_grpB4 :
    after .grpB2 (decoding (.selector 1#2)) (fun t => (t.ov, t.j, t.form, t.pos)) = some (6, 0, .b2, .packed) ∧
    after .grpB4 (decoding (.selector 2#2)) (fun t => (t.ov, t.j, t.form, t.pos)) = some (10, 0, .b4, .packed) := by
  decide

theorem test_grpB8 :
    after .grpB8 { decoding (.selector 3#2) with j := 9 } (fun t => (t.j, t.cur, t.pos)) = some (0, 2, .raw) := by decide

/-- R112: the packed byte 1B holds the codes 0 1 2 3 under MSB_FIRST; 3 2 1 0 under LSB_FIRST (R88). -/
theorem test_pack2 :
    after (.pack2 0#2 1#2 2#2 3#2) (decoding .packed) (·.packed) = some 0x1B#8 ∧
    (List.range 4).map (code2 .msbFirst 0x1B#8) = [0#2, 1#2, 2#2, 3#2] ∧
    (List.range 4).map (code2 .lsbFirst 0x1B#8) = [3#2, 2#2, 1#2, 0#2] := by decide

/-- R113: the packed byte F5 holds the codes F 5 under MSB_FIRST; 5 F under LSB_FIRST (R89). -/
theorem test_pack4 :
    after (.pack4 15#4 5#4) (decoding .packed) (·.packed) = some 0xF5#8 ∧
    (List.range 2).map (code4 .msbFirst 0xF5#8) = [15#4, 5#4] ∧
    (List.range 2).map (code4 .lsbFirst 0xF5#8) = [5#4, 15#4] := by decide

/-- R115: a literal is its own value; the place after code 3 is the next packed byte, after code 4 the next code. -/
theorem test_c2_literals :
    after .c2Lit0 { decoding .code with j := 3 } (fun t => (t.cell .col 3, t.j, t.pos)) = some (0#8, 4, .packed) ∧
    after .c2Lit1 { decoding .code with j := 4 } (fun t => (t.cell .col 4, t.j, t.pos)) = some (1#8, 5, .code) ∧
    after .c2Lit2 { decoding .code with j := 15, ov := 9 } (fun t => (t.cell .col 15, t.cur, t.pos)) =
      some (2#8, 9, .residual) := by decide

/-- R115: the sixteen 4-bit codes but the escape. -/
theorem test_c4_literals :
    [Instr.c4Lit0, .c4Lit1, .c4Lit2, .c4Lit3, .c4Lit4, .c4Lit5, .c4Lit6, .c4Lit7, .c4Lit8, .c4Lit9, .c4Lit10,
      .c4Lit11, .c4Lit12, .c4Lit13, .c4Lit14].map
      (fun i => after i { decoding .code with j := 2, form := .b4 } (fun t => (t.cell .col 2, t.j, t.pos))) =
    (List.range 15).map (fun v => some (BitVec.ofNat 8 v, 3, .code)) := by decide

theorem test_escapes :
    after .c2Esc { decoding .code with j := 3 } (fun t => (t.pos, t.j, t.ov)) = some (.overflow, 3, 6) ∧
    after .c4Esc { decoding .code with j := 3 } (fun t => (t.pos, t.j, t.form)) = some (.overflow, 3, .b4) := by decide

/-- R115: an escape whose overflow byte is 3 yields 3 and consumes one byte; R113: `a' = a + 8 + e`, here 10 + 16 for sixteen
escapes of a group at 2. -/
theorem test_ovf :
    after (.ovf 3#8) { decoding .overflow with j := 3 } (fun t => (t.cell .col 3, t.ov, t.j)) = some (3#8, 7, 4) ∧
    after (.ovf 0xFF#8) { decoding .overflow with j := 15, form := .b4, ov := 25 }
      (fun t => (t.cell .col 15, t.cur, t.pos)) = some (0xFF#8, 26, .residual) := by decide

/-- R114: `a' = a + 16`; in a column of two groups the second follows (R133). -/
theorem test_raw :
    after (.raw 0xFF#8) { decoding .raw with j := 15 } (fun t => (t.cell .col 15, t.cur)) = some (0xFF#8, 18) ∧
    after (.raw 0xF0#8) { decoding .raw with j := 15, n := 32 } (fun t => (t.cur, t.g, t.pos)) =
      some (18, 1, .group) := by decide

/-- R168, R170: snapshot byte 3 of 4 is the last; the block size of VSIZE 4 is 256. -/
theorem test_snap :
    after (.snap 0x80#8) { decoding .snapshot with cur := 1, k := 1 } (fun t => (t.cell .lastv 1, t.k, t.cur)) =
      some (0x80#8, 2, 1) ∧
    after (.snap 0xFF#8) { decoding .snapshot with cur := 1, k := 3, voff := 9, bsize := 0 }
      (fun t => (t.cell .lastv 3, t.voff, t.bsize, t.pos)) = some (0xFF#8, 0, 256, .blockLoop) := by decide

/-- R160: predictor 10 and residual 02 give 11, at byte 0 of vertex 1; R159: FF and +1 wrap to 00. -/
theorem test_zzPos :
    after (.zzPos 1#7) { decoding .residual with i := 1, p := 0x10#8 } (fun t => (t.cell .blk 4, t.p, t.i)) =
      some (0x11#8, 0x11#8, 2) ∧
    after (.zzPos 1#7) { decoding .residual with i := 15, k := 3, p := 0xFF#8 }
      (fun t => (t.cell .blk 63, t.p, t.pos)) = some (0x00#8, 0x00#8, .commit) := by decide

/-- R160: predictor 00 and residual FF (delta 80) give 80; predictor 80 and residual 01 (delta FF) give 7F. -/
theorem test_zzNeg :
    after (.zzNeg 127#7) (decoding .residual) (fun t => (t.cell .blk 0, t.p)) = some (0x80#8, 0x80#8) ∧
    after (.zzNeg 0#7) { decoding .residual with i := 15, p := 0x80#8 } (fun t => (t.cell .blk 60, t.k, t.pos)) =
      some (0x7F#8, 1, .column) := by decide

/-- R179, R182. -/
theorem test_start :
    after (.cmdStart 0#30) idle (fun t => (t.statusWord, t.irq)) = some (0x001#32, false) ∧
    after (.cmdStart 0#30) (decoding .column) (fun t => (t.statusWord, t.cur)) = some (0x001#32, 2) := by decide

/-- R181, R182. -/
theorem test_clear :
    after (.cmdClear 0#30) { takeException .badTag (decoding .tag) with cur := 7 }
      (fun t => (t.statusWord, t.cur, t.vsize)) = some (0x000#32, 0, 4#32) ∧
    after (.cmdClear 0#30) (decoding .column) (fun t => (t.statusWord, t.cur)) = some (0x001#32, 2) := by decide

/-- R182. -/
theorem test_none_rsvd :
    after (.cmdNone 0#30) idle id = some idle ∧ after (.cmdRsvd 0#30) (decoding .column) id = some (decoding .column) := by
  decide

/-! ### The engine's own steps -/

/-- R199's examples: VSIZE 258, VSIZE 3 with INLEN 0, VSIZE 4 with INLEN 4. -/
theorem test_operand_checks :
    (checkOperands { decoding .operands with vsize := 258#32 }).statusWord = 0x113#32 ∧
    (checkOperands { decoding .operands with vsize := 3#32, inlen := 0#32 }).statusWord = 0x213#32 ∧
    (checkOperands { decoding .operands with inlen := 4#32 }).statusWord = 0x423#32 ∧
    (checkOperands { decoding .operands with inlen := 5#32 }).pos = .tag := by decide

/-- R170's table. -/
theorem test_block_sizes :
    [4, 32, 36, 40, 44, 48, 52, 60, 68, 76, 88, 104, 132, 172, 256].map blockSize =
    [256, 256, 224, 192, 176, 160, 144, 128, 112, 96, 80, 64, 48, 32, 32] := by decide

/-- R172: 2000 vertices of 4 bytes are seven blocks of 256 and one of 208 (R184), so `n = 208`. -/
theorem test_last_block :
    (fun t : State => (t.bcount, t.n)) (enterBlock { decoding .blockLoop with vcount := 2000#32, voff := 1792 }) =
      (208, 208) ∧
    (fun t : State => (t.bcount, t.n)) (enterBlock { decoding .blockLoop with vcount := 17#32 }) = (17, 32) := by decide

/-- R160, steps 3 and 4: the block 11 7F 00 80 | 12 7E 00 80 | 13 7D FF FF at vertex 2 of OUT, and LASTV. -/
theorem test_commit :
    (fun t : State => (t.outBuf, t.lastv, t.voff))
      (committed
        { decoding .commit with
          bcount := 3
          voff := 2
          blk := [(0, 0x11#8), (1, 0x7F#8), (2, 0x00#8), (3, 0x80#8), (4, 0x12#8), (5, 0x7E#8), (6, 0x00#8),
            (7, 0x80#8), (8, 0x13#8), (9, 0x7D#8), (10, 0xFF#8), (11, 0xFF#8)] }) =
      ([(8, 0x11#8), (9, 0x7F#8), (10, 0x00#8), (11, 0x80#8), (12, 0x12#8), (13, 0x7E#8), (14, 0x00#8),
        (15, 0x80#8), (16, 0x13#8), (17, 0x7D#8), (18, 0xFF#8), (19, 0xFF#8)],
        [(0, 0x13#8), (1, 0x7D#8), (2, 0xFF#8), (3, 0xFF#8)], 5) := by decide

/-- R134: 32 bytes remaining pass, 31 do not; nor does a cursor beyond the buffer. -/
theorem test_margin :
    { decoding .group with cur := 5 }.marginOk = true ∧ { decoding .group with cur := 6 }.marginOk = false ∧
    { decoding .group with cur := 41 }.marginOk = false := by decide

/-! ### Decodes as functions -/

/-- The bytes of a list as a buffer. -/
def buffer (bytes : List Byte) (a : Nat) : Byte := bytes.getD a 0#8

/-- R112's example. -/
theorem test_group_b2 :
    decodeGroup .msbFirst (buffer [0x1B#8, 0xC0#8, 0x24#8, 0x93#8, 0x7F#8, 0xFF#8, 0x03#8]) 0 1#2 =
      ([0x00#8, 0x01#8, 0x02#8, 0x7F#8, 0xFF#8, 0x00#8, 0x00#8, 0x00#8, 0x00#8, 0x02#8, 0x01#8, 0x00#8, 0x02#8,
        0x01#8, 0x00#8, 0x03#8], 7) := by decide

/-- R113's example, by both group decoders. -/
theorem test_group_b4 :
    let rd := buffer [0x0F#8, 0x23#8, 0xF5#8, 0x67#8, 0x89#8, 0xAB#8, 0xCD#8, 0xEF#8, 0x80#8, 0x0F#8, 0xFF#8]
    let expected := ([0x00#8, 0x80#8, 0x02#8, 0x03#8, 0x0F#8, 0x05#8, 0x06#8, 0x07#8, 0x08#8, 0x09#8, 0x0A#8,
      0x0B#8, 0x0C#8, 0x0D#8, 0x0E#8, 0xFF#8], 11)
    decodeGroup .msbFirst rd 0 2#2 = expected ∧ decodeGroupVectorised .msbFirst rd 0 2#2 = expected := by decide

/-- R122's examples. -/
theorem test_shuffle_tables :
    escapeCount 0x00#8 = 0 ∧ escapeCount 0xFF#8 = 8 ∧ escapeCount 0x09#8 = 2 ∧ escapeCount 0x80#8 = 1 ∧
    (List.range 8).map (shuffleIndex 0x09#8) = [some 0, none, none, some 1, none, none, none, none] ∧
    shuffleIndex 0x80#8 7 = some 0 := by decide

/-- R104's example of the line notation. -/
theorem test_listing :
    assemble .msbFirst
      [.hdr 1#2 0#2 3#2 0#2,
        .grpB2 [.lit 0#4, .lit 1#4, .lit 2#4, .esc 0x7F#8, .esc 0xFF#8, .lit 0#4, .lit 0#4, .lit 0#4, .lit 0#4,
          .lit 2#4, .lit 1#4, .lit 0#4, .lit 2#4, .lit 1#4, .lit 0#4, .esc 0x03#8]] =
      [0x31#8, 0x1B#8, 0xC0#8, 0x24#8, 0x93#8, 0x7F#8, 0xFF#8, 0x03#8] := by decide

/-- R146: the document's own values. -/
theorem test_unzigzag : [0#8, 1#8, 2#8, 3#8, 254#8, 255#8].map unzigzag = [0#8, 255#8, 1#8, 254#8, 127#8, 128#8] := by
  decide

/-- R160's column 3: predictor 00, residuals FF 00 FE give 80 80 FF. -/
theorem test_chain : deltaChain 0x00#8 [0xFF#8, 0x00#8, 0xFE#8] = [0x80#8, 0x80#8, 0xFF#8] := by decide

/-- The tag and zeros: the buffers of R185. -/
def zeroStream (a : Nat) : Byte := if a = 0 then 0xA0#8 else 0#8

/-- R185: 37 bytes decode to 64 zeros with the cursor at 5; the literal 9-byte reading ends in TAIL_MARGIN at 2. -/
theorem test_document_example :
    decodeStream .msbFirst 16 4 37 zeroStream = .value (List.replicate 64 0#8, 5) ∧
    decodeStream .msbFirst 16 4 9 zeroStream = .raised .tailMargin 2 := by decide

/-! ### Registers (R28 to R34) -/

theorem test_registers :
    (readRegister 0x04 (takeException .tailMargin (decoding .group))).readData = 0x623#32 ∧
    (readRegister 0x14 (takeException .tailMargin (decoding .group))).readData = 2#32 ∧
    (readRegister 0x18 (decoding .group)).readData = 0#32 ∧ (writeRegister 0x0C 3#32 idle).vsize = 3#32 ∧
    (writeRegister 0x0C 3#32 (decoding .group)).vsize = 4#32 := by decide

/-! ### The host protocol (R227) -/

/-- With status 0x002 the host reads the result next; with an error status the cursor; the rest of its list stays. -/
theorem test_protocol_branch :
    (let s : State := { idle with readData := 0x002#32, pending := [.readOutcome 2, .writeReg .word 0x00 2#32] }
     (next? (step s)).map (·.pending) = some [.readOut 0, .readOut 1, .writeReg .word 0x00 2#32]) ∧
    (let s : State := { idle with readData := 0x623#32, pending := [.readOutcome 2, .writeReg .word 0x00 2#32] }
     (next? (step s)).map (·.pending) = some [.readReg .word 0x14, .writeReg .word 0x00 2#32]) := by decide

/-- R32: a START straight after reset, with VSIZE 0, ends in `InvalidArgument(VSIZE_RANGE)` with the cursor at 0. -/
theorem test_protocol_error :
    callResult (hostReads 12 { idle with pending := decodeCall 0#32 0#32 [] }) = some (.error 1#2 1#4 0#32) := by decide

/-- What the words a call read amount to: two bytes, and a TAIL_MARGIN at 2. -/
theorem test_protocol_result :
    callResult [0x002#32, 0x7F#32, 0xFF#32] = some (.result [0x7F#8, 0xFF#8]) ∧
    callResult [0x623#32, 2#32] = some (.error 2#2 6#4 2#32) := by decide

/-! ### Witnesses: states and operands that meet the hypotheses of the obligations -/

/-- A decode under way whose arrays are unwritten meets the invariant if its place does. -/
theorem inv_of_place {s : State} (hm : s.lastv = [] ∧ s.col = [] ∧ s.blk = [] ∧ s.outBuf = [])
    (hi : s.inBuf.wf = true) (hc : s.config = config)
    (hs : s.engine = .busy ∧ s.err = .none ∧ s.cause = .none ∧ s.rst = false) (hp : DecodePlace s) : Inv s := by
  obtain ⟨h1, h2, h3, h4⟩ := hm
  obtain ⟨e1, e2, e3, e4⟩ := hs
  refine ⟨?_, ?_, ?_, ?_, ?_, ?_, ?_⟩
  · intro bank
    cases bank
    · rw [State.bank, h1]; rfl
    · rw [State.bank, h2]; rfl
    · rw [State.bank, h3]; rfl
    · exact hi
    · rw [State.bank, h4]; rfl
  · simp [CellsExist, Memory.below, h1, h2, h3, h4, hc, config, capacityHolds]
  · simp [StatusConsistent, e1, e2, e3, Cause.errClass]
  · simp [e1]
  · simp [e4]
  · simp [e1]
  · exact fun _ => ⟨by simp [State.capacitiesHold, hc, config, capacityHolds], hp⟩

theorem running_decoding (pos : Pos) : Running (decoding pos) := ⟨rfl, rfl, rfl⟩

/-- The places of a decode, each at one state of the test's decode. -/
def places : List State :=
  [{ decoding .operands with cur := 0 }, { decoding .tag with cur := 0 }, { decoding .snapshot with cur := 1, k := 3 },
    { decoding .blockLoop with cur := 1 }, { decoding .column with cur := 1 }, decoding .group, decoding (.selector 2#2),
    decoding .packed, { decoding .code with j := 15 }, { decoding .overflow with j := 15, ov := 21 },
    { decoding .raw with j := 15 }, { decoding .residual with i := 15 }, decoding .commit]

theorem inv_places : ∀ s ∈ places, Inv s ∧ Running s := by
  intro s hs
  simp only [places, List.mem_cons, List.not_mem_nil, or_false] at hs
  rcases hs with rfl | rfl | rfl | rfl | rfl | rfl | rfl | rfl | rfl | rfl | rfl | rfl | rfl
  all_goals refine ⟨inv_of_place ⟨rfl, rfl, rfl, rfl⟩ rfl rfl ⟨rfl, rfl, rfl, rfl⟩ ?_, rfl, rfl, rfl⟩
  all_goals
    simp [DecodePlace, decoding, idle, State.reset, InPacked, InGroup, InColumn, InBlock, ColumnStart, OperandsChecked,
      State.nextBlockCount, blockSize, roundUp, roundDown, headerBytes, ceilDiv, CodeForm.packedBytes, CodeForm.perByte]

theorem witness_DecodeOfEncode : (Instr.hdr 3#2 2#2 1#2 0#2).wellFormedAt .header = true := by decide

theorem witness_EncodeOfDecode : decode .residual 0xFFFFFFFF#32 = .ok (.zzNeg 127#7) := by decide

/-- At a selector, and at a group whose margin check passes with exactly 32 bytes remaining. -/
theorem witness_StepRunsElement :
    (Running (decoding (.selector 2#2)) ∧
      (decoding (.selector 2#2)).presented = .element .selector 2#32 ∧ decode .selector 2#32 = .ok .grpB4) ∧
    (let s : State := { decoding .group with cur := 5, inBuf := [(1, 0x31#8)] }
     Running s ∧ s.marginOk = true ∧ s.presented = .element .header 0x31#32 ∧
      decode .header 0x31#32 = .ok (.hdr 1#2 0#2 3#2 0#2)) := by
  refine ⟨⟨running_decoding _, ?_, ?_⟩, ⟨rfl, rfl, rfl⟩, ?_, ?_, ?_⟩ <;> decide

theorem witness_StepRunsCommand :
    let s : State := { idle with pending := [.writeReg .word 0x00 1#32] }
    s.pending = .writeReg .word 0x00 1#32 :: [] ∧ s.rst = false := by decide

/-- Each clause, at the last address below INLEN. -/
theorem witness_ElementsStandWhereTheRulesSay :
    (decoding .tag).capacitiesHold = true ∧
    (let s : State := { decoding .tag with inlen := 1#32 }; s.pos = .tag ∧ 0 < s.inlen.toNat) ∧
    (let s : State := { decoding .snapshot with inlen := 4#32, k := 3 }
     s.pos = .snapshot ∧ s.vsize.toNat ≤ s.inlen.toNat ∧ s.k < s.vsize.toNat) ∧
    (let s : State := { decoding .group with hdr := 33, g := 15 }; s.pos = .group ∧ s.hdr + s.g / 4 < s.inlen.toNat) ∧
    (let s : State := { decoding .packed with cur := 33, j := 12 }
     s.pos = .packed ∧ s.form = .b2 ∧ s.cur + s.j / 4 < s.inlen.toNat) ∧
    (let s : State := { decoding .packed with cur := 29, j := 14, form := .b4 }
     s.pos = .packed ∧ s.form = .b4 ∧ s.cur + s.j / 2 < s.inlen.toNat) ∧
    (let s : State := { decoding .code with j := 15, form := .b4 }; s.pos = .code ∧ s.form = .b4) ∧
    (let s : State := { decoding .overflow with ov := 36 }; s.pos = .overflow ∧ s.ov < s.inlen.toNat) ∧
    (let s : State := { decoding .raw with cur := 21, j := 15 }; s.pos = .raw ∧ s.cur + s.j < s.inlen.toNat) ∧
    (decoding .residual).pos = .residual := by decide

theorem witness_LiteralCodesStoreTheirValue :
    (Instr.c2Lit2, CodeForm.b2, 2#8) ∈ literalCodes ∧ (Instr.c4Lit14, CodeForm.b4, 14#8) ∈ literalCodes := by decide

/-- Both clauses of a residual's place and both of a group's end: residuals 14 and 15, the first and the last of two
groups. -/
theorem witness_GroupEnds :
    { decoding .raw with j := 14 }.j + 1 < 16 ∧ ¬ { decoding .raw with j := 15 }.j + 1 < 16 ∧
    { decoding .raw with n := 32, g := 0 }.g + 1 < { decoding .raw with n := 32, g := 0 }.n / 16 ∧
    ¬ { decoding .raw with n := 32, g := 1 }.g + 1 < { decoding .raw with n := 32, g := 1 }.n / 16 := by decide

/-- A group at 5 of a buffer of 37 bytes: exactly the margin. -/
theorem witness_GroupConsumption :
    5 + 32 ≤ 37 ∧ (∀ x, 5 ≤ x → x < 5 + 24 → zeroStream x = (fun _ => 0#8) x) := by
  refine ⟨by decide, fun x h _ => ?_⟩
  rw [zeroStream, if_neg (by omega)]

theorem witness_OverflowBytesInCodeOrder :
    15 < 16 ∧ CodeForm.b2.escapes (codeOf .b2 .msbFirst (fun _ => 0xFF#8) 0 15) = true ∧
    escapesBefore .b2 .msbFirst (fun _ => 0xFF#8) 0 15 = 15 := by decide

/-- R104's group, and a 4-bit group with the largest literal. -/
theorem witness_AssembledGroupDecodes :
    let items2 : List CodeItem := [.lit 0#4, .lit 1#4, .lit 2#4, .esc 0x7F#8, .esc 0xFF#8, .lit 0#4, .lit 0#4, .lit 0#4,
      .lit 0#4, .lit 2#4, .lit 1#4, .lit 0#4, .lit 2#4, .lit 1#4, .lit 0#4, .esc 0x03#8]
    let items4 : List CodeItem := .lit 14#4 :: List.replicate 15 (.esc 0xFF#8)
    (items2.length = 16 ∧ (∀ v, CodeItem.lit v ∈ items2 → v.toNat < 3) ∧
      ∀ x (h : x < ((Line.grpB2 items2).bytes .msbFirst).length),
        buffer ((Line.grpB2 items2).bytes .msbFirst) (0 + x) = ((Line.grpB2 items2).bytes .msbFirst)[x]) ∧
    (items4.length = 16 ∧ (∀ v, CodeItem.lit v ∈ items4 → v.toNat < 15) ∧
      ∀ x (h : x < ((Line.grpB4 items4).bytes .lsbFirst).length),
        buffer ((Line.grpB4 items4).bytes .lsbFirst) (0 + x) = ((Line.grpB4 items4).bytes .lsbFirst)[x]) := by
  refine ⟨⟨rfl, ?_, ?_⟩, rfl, ?_, ?_⟩
  · decide
  · intro x h; rw [Nat.zero_add, buffer, List.getD_eq_getElem _ _ h]
  · decide
  · intro x h; rw [Nat.zero_add, buffer, List.getD_eq_getElem _ _ h]

/-- The last group of a column, and the first of two (17 vertices). -/
theorem witness_EngineDecodesGroup :
    (Inv (decoding (.selector 2#2)) ∧ Running (decoding (.selector 2#2)) ∧
      ¬ (decoding (.selector 2#2)).g + 1 < (decoding (.selector 2#2)).n / 16) ∧
    (let s : State := { decoding (.selector 1#2) with vcount := 17#32, bcount := 17, n := 32 }
     Inv s ∧ Running s ∧ s.g + 1 < s.n / 16) := by
  refine ⟨⟨(inv_places _ (by simp [places])).1, running_decoding _, by decide⟩, ?_, ⟨rfl, rfl, rfl⟩, by decide⟩
  refine inv_of_place ⟨rfl, rfl, rfl, rfl⟩ rfl rfl ⟨rfl, rfl, rfl, rfl⟩ ?_
  simp [DecodePlace, decoding, idle, State.reset, InGroup, InColumn, InBlock, OperandsChecked, State.nextBlockCount,
    blockSize, roundUp, roundDown, headerBytes, ceilDiv]

/-- 31 bytes remaining, a cursor beyond the buffer, and 32 bytes remaining. -/
theorem witness_MarginCheckBeforeEveryGroup :
    (let s : State := { decoding .group with cur := 6 }; Running s ∧ s.pos = .group ∧ s.inlen.toNat - s.cur < 32) ∧
    (let s : State := { decoding .group with cur := 38 }; Running s ∧ s.pos = .group ∧ s.inlen.toNat < s.cur) ∧
    (let s : State := { decoding .group with cur := 5 }
     Running s ∧ s.pos = .group ∧ s.cur + 32 ≤ s.inlen.toNat ∧ s.capacitiesHold = true ∧
      s.hdr + s.g / 4 < s.inlen.toNat) := by
  refine ⟨⟨⟨rfl, rfl, rfl⟩, ?_⟩, ⟨⟨rfl, rfl, rfl⟩, ?_⟩, ⟨rfl, rfl, rfl⟩, ?_⟩ <;> decide

/-- Column entry, alone and with the invariant; the second state's column raises TAIL_MARGIN, the first does not. -/
theorem witness_EngineDecodesColumn :
    (let s : State := { decoding .column with cur := 1, inBuf := [(1, 0#8)] }
     Inv s ∧ Running s ∧ s.pos = .column ∧
      decodeColumn s.config.codeOrder (s.cell .input) s.inlen.toNat s.cur s.n = .value (List.replicate 16 0#8, 2)) ∧
    (let s : State := { decoding .column with cur := 1, inlen := 33#32 }
     Inv s ∧ Running s ∧ s.pos = .column ∧
      decodeColumn s.config.codeOrder (s.cell .input) s.inlen.toNat s.cur s.n = .raised .tailMargin 2) := by
  refine ⟨⟨?_, ⟨rfl, rfl, rfl⟩, rfl, by decide⟩, ?_, ⟨rfl, rfl, rfl⟩, rfl, by decide⟩
  all_goals refine inv_of_place ⟨rfl, rfl, rfl, rfl⟩ rfl rfl ⟨rfl, rfl, rfl, rfl⟩ ?_
  all_goals
    simp [DecodePlace, decoding, idle, State.reset, InBlock, ColumnStart, OperandsChecked, State.nextBlockCount, blockSize,
      roundUp, roundDown, ceilDiv]

theorem witness_ColumnEntry : Running (decoding .column) ∧ (decoding .column).pos = .column := ⟨⟨rfl, rfl, rfl⟩, rfl⟩

/-- The three ways a delta step goes on: vertex 14, vertex 15 of column 2, vertex 15 of column 3. -/
theorem witness_StepsDelta :
    (let s : State := { decoding .residual with i := 14 }; s.i + 1 < s.bcount) ∧
    (let s : State := { decoding .residual with i := 15, k := 2 }
     ¬ s.i + 1 < s.bcount ∧ s.k + 1 < s.vsize.toNat) ∧
    (let s : State := { decoding .residual with i := 15, k := 3 }
     ¬ s.i + 1 < s.bcount ∧ ¬ s.k + 1 < s.vsize.toNat) := by decide

/-- OUT holds the block exactly. -/
theorem witness_CommitWritesBlockAndLastVertex :
    let s : State := { decoding .commit with config := { config with outCap := some 64 } }
    Running s ∧ s.pos = .commit ∧ capacityHolds s.config.outCap ((s.voff + s.bcount) * s.vsize.toNat) = true :=
  ⟨⟨rfl, rfl, rfl⟩, rfl, by decide⟩

/-- The end of the loop; counts 1, 256, 0 and 257. -/
theorem witness_BlockLoopHead :
    Running (decoding .blockLoop) ∧
    (let s : State := { decoding .blockLoop with voff := 16 }; s.vcount.toNat ≤ s.voff) ∧
    (let s : State := { decoding .blockLoop with voff := 15 }
     s.voff < s.vcount.toNat ∧ min s.bsize (s.vcount.toNat - s.voff) = 1) ∧
    (let s : State := { decoding .blockLoop with vcount := 257#32 }
     s.voff < s.vcount.toNat ∧ min s.bsize (s.vcount.toNat - s.voff) = 256) ∧
    (let s : State := { decoding .blockLoop with bsize := 0 }
     s.voff < s.vcount.toNat ∧ min s.bsize (s.vcount.toNat - s.voff) = 0) ∧
    (let s : State := { decoding .blockLoop with vcount := 257#32, bsize := 272 }
     s.voff < s.vcount.toNat ∧ min s.bsize (s.vcount.toNat - s.voff) = 257) := by
  refine ⟨⟨rfl, rfl, rfl⟩, ?_⟩; decide

/-- The smallest and the largest legal VSIZE. -/
theorem witness_BlockSizeProperties : (4 ≤ 4 ∧ 4 ≤ 256 ∧ 4 % 4 = 0) ∧ (4 ≤ 256 ∧ 256 ≤ 256 ∧ 256 % 4 = 0) := by decide

/-- VSIZE 0 and 257; 1 and 255; 4 with 4 bytes; 4 with 5 bytes, and 256 with 257. -/
theorem witness_OperandChecks :
    Running (decoding .operands) ∧
    { decoding .operands with vsize := 0#32 }.vsize.toNat = 0 ∧
    257 ≤ { decoding .operands with vsize := 257#32 }.vsize.toNat ∧
    (∀ v ∈ [1#32, 255#32], let s : State := { decoding .operands with vsize := v }
      1 ≤ s.vsize.toNat ∧ s.vsize.toNat ≤ 256 ∧ s.vsize.toNat % 4 ≠ 0) ∧
    (let s : State := { decoding .operands with vsize := 4#32, inlen := 4#32 }
     1 ≤ s.vsize.toNat ∧ s.vsize.toNat ≤ 256 ∧ s.vsize.toNat % 4 = 0 ∧ s.inlen.toNat < 1 + s.vsize.toNat) ∧
    (∀ v ∈ [(4#32, 5#32), (256#32, 257#32)], let s : State := { decoding .operands with vsize := v.1, inlen := v.2 }
      1 ≤ s.vsize.toNat ∧ s.vsize.toNat ≤ 256 ∧ s.vsize.toNat % 4 = 0 ∧ 1 + s.vsize.toNat ≤ s.inlen.toNat) :=
  ⟨⟨rfl, rfl, rfl⟩, rfl, by simp, by simp, by simp, by simp⟩

/-- A good tag, and a wrong one in a state of the invariant. -/
theorem witness_TagCheck :
    (let s : State := { decoding .tag with inlen := 1#32, inBuf := [(0, 0xA0#8)] }
     Running s ∧ s.pos = .tag ∧ 1 ≤ s.inlen.toNat ∧ s.capacitiesHold = true ∧ s.cell .input 0 = 0xA0#8) ∧
    (let s : State := { decoding .tag with cur := 0, inBuf := [(0, 0xA1#8)] }
     Inv s ∧ Running s ∧ s.pos = .tag ∧ 1 ≤ s.inlen.toNat ∧ s.capacitiesHold = true ∧
      s.cell .input 0 ≠ 0xA0#8) := by
  refine ⟨⟨⟨rfl, rfl, rfl⟩, by decide⟩, ?_, ⟨rfl, rfl, rfl⟩, by decide⟩
  refine inv_of_place ⟨rfl, rfl, rfl, rfl⟩ rfl rfl ⟨rfl, rfl, rfl, rfl⟩ ?_
  simp [DecodePlace, decoding, idle, State.reset, OperandsChecked]

/-- Snapshot bytes 2 and 3 of 4. -/
theorem witness_SnapshotByteInitialisesLastVertex :
    (let s : State := { decoding .snapshot with k := 2 }; s.k + 1 < s.vsize.toNat) ∧
    (let s : State := { decoding .snapshot with k := 3 }; ¬ s.k + 1 < s.vsize.toNat) := by decide

theorem witness_StreamElementsStayInside : Instr.tag.slot ≠ .ctrl ∧ (Instr.zzNeg 0#7).slot ≠ .ctrl := by decide

theorem witness_DecodedLength : decodeStream .lsbFirst 1 4 37 zeroStream = .value (List.replicate 4 0#8, 5) := by decide

/-- Each clause at the ends of its range. -/
theorem witness_EmptyDecode :
    (1 ≤ 1 ∧ 1 ≤ 256 ∧ 1 % 4 ≠ 0) ∧ (1 ≤ 255 ∧ 255 ≤ 256 ∧ 255 % 4 ≠ 0) ∧
    (1 ≤ 4 ∧ 4 ≤ 256 ∧ 4 % 4 = 0 ∧ 4 < 1 + 4) ∧
    (1 ≤ 256 ∧ 256 ≤ 256 ∧ 256 % 4 = 0 ∧ 1 + 256 ≤ 257 ∧ (fun _ : Nat => 0xA1#8) 0 ≠ 0xA0#8) ∧
    (1 ≤ 256 ∧ 256 ≤ 256 ∧ 256 % 4 = 0 ∧ 1 + 256 ≤ 257 ∧ zeroStream 0 = 0xA0#8) := by decide

/-- Also the hypotheses of EveryDecodeEnds, met at every place by `inv_places`. -/
theorem witness_EngineRunsDecodeStream :
    let s : State := { decoding .operands with cur := 0 }
    Inv s ∧ Running s ∧ s.pos = .operands :=
  ⟨(inv_places _ (by simp [places])).1, ⟨rfl, rfl, rfl⟩, rfl⟩

/-- Two machines that agree on the operands and on the input, and differ elsewhere. -/
theorem witness_OutcomeDependsOnOperandsAndInput :
    let s₁ : State := { decoding .operands with cur := 0 }
    let s₂ : State := { decoding .operands with cur := 0, voff := 7, g := 9, p := 1#8 }
    Inv s₁ ∧ Inv s₂ ∧ Running s₁ ∧ Running s₂ ∧ s₁.pos = .operands ∧ s₂.pos = .operands ∧ s₁ ≠ s₂ ∧
    s₁.vcount = s₂.vcount ∧ s₁.vsize = s₂.vsize ∧ s₁.inlen = s₂.inlen ∧
    s₁.config.codeOrder = s₂.config.codeOrder ∧
    (∀ a, a < s₁.inlen.toNat → s₁.cell .input a = s₂.cell .input a) := by
  refine ⟨?_, ?_, ⟨rfl, rfl, rfl⟩, ⟨rfl, rfl, rfl⟩, rfl, rfl, by simp [decoding, idle, State.reset], rfl, rfl, rfl,
    rfl, fun _ _ => rfl⟩
  all_goals
    exact inv_of_place ⟨rfl, rfl, rfl, rfl⟩ rfl rfl ⟨rfl, rfl, rfl, rfl⟩ rfl

/-- An accepted START at the capacities, one beyond them, and one ignored. -/
theorem witness_StartCommand :
    (let s : State := { idle with inlen := 5#32, config := { config with inCap := some 5 } }
     s.engine = .idle ∧ s.capacitiesHold = true) ∧
    (let s : State := { idle with inlen := 6#32, config := { config with inCap := some 5 } }
     s.engine = .idle ∧ s.capacitiesHold = false) ∧
    (decoding .group).engine ≠ .idle := by decide

theorem witness_ClearCommand :
    (completeDecode (decoding .blockLoop)).engine = .done ∧ (takeException .badTag (decoding .tag)).engine = .error ∧
    idle.engine = .idle ∧ (decoding .group).engine = .busy := by decide

/-- A step out of each STATE. -/
theorem witness_StateDiagram :
    ((next? (step { idle with pending := [.writeReg .word 0x00 1#32] })).map (·.engine) = some .busy) ∧
    ((next? (step { decoding .blockLoop with voff := 16 })).map (·.engine) = some .done) ∧
    ((next? (step { decoding .group with cur := 6 })).map (·.engine) = some .error) ∧
    ((next? (step { takeException .badTag idle with pending := [.writeReg .word 0x00 2#32] })).map (·.engine) =
      some .idle) ∧
    ((next? (step { decoding .group with pending := [.setRst true] })).map (fun t => (t.engine, t.rst)) =
      some (.idle, true)) := by decide

/-- A host write to VCOUNT while BUSY, and a step of the engine. -/
theorem witness_OperandsStableWhileBusy :
    (let s : State := { decoding .group with pending := [.writeReg .word 0x08 5#32] }
     s.engine = .busy ∧ (next? (step s)).isSome = true ∧ s.pending.head? ≠ some (.setRst true)) ∧
    (let s : State := decoding .column
     s.engine = .busy ∧ (next? (step s)).isSome = true ∧ s.pending.head? ≠ some (.setRst true)) := by decide

theorem witness_EngineQuiescentUnlessBusy :
    idle.pending = [] ∧ idle.engine ≠ .busy ∧ (takeException .badTag idle).engine ≠ .busy := by decide

/-- The invariant in each STATE but IDLE; in IDLE it is the obligation InvariantAtReset. -/
theorem witness_StatusWords :
    Inv (decoding .group) ∧ Inv (completeDecode (decoding .group)) ∧ Inv (takeException .tailMargin (decoding .group)) := by
  refine ⟨(inv_places _ (by simp [places])).1, ?_, ?_⟩
  all_goals refine ⟨?_, ?_, ?_, ?_, ?_, ?_, ?_⟩
  all_goals first
    | (intro bank; cases bank <;> rfl)
    | (simp [CellsExist, Memory.below, completeDecode, decoding, idle, State.reset]; done)
    | (simp [StatusConsistent, completeDecode, decoding, idle, State.reset, Cause.errClass])

theorem witness_RegisterReads :
    (let s : State := { completeDecode (decoding .group) with pending := [.readReg .word 0x14] }
     s.pending = .readReg .word 0x14 :: [] ∧ 0x14 % 4 = 0 ∧ s.engine = .done) ∧
    (let s : State := { decoding .group with pending := [.readReg .word 0x14] }
     s.pending = .readReg .word 0x14 :: [] ∧ s.engine = .busy) ∧
    (let s : State := { idle with pending := [.readReg .word 0x14] }
     s.pending = .readReg .word 0x14 :: [] ∧ s.engine = .idle) ∧
    (0x18 ≤ 0x18 ∧ 0x18 % 4 = 0) := by decide

theorem witness_RegisterWrites :
    (∀ o ∈ [0x04, 0x08, 0x0C, 0x10, 0x14, 0x18],
      let s : State := { idle with pending := [.writeReg .word o 5#32] }
      s.pending = .writeReg .word o 5#32 :: [] ∧ o % 4 = 0 ∧ o ≠ 0x00 ∧ s.rst = false ∧ s.engine = .idle) ∧
    (decoding .group).engine ≠ .idle := by decide

theorem witness_PartialAccessRefused :
    (AccessWidth.byte ≠ .word ∨ 0x04 % 4 ≠ 0) ∧ (AccessWidth.word ≠ .word ∨ 0x06 % 4 ≠ 0) ∧
    { idle with pending := [.writeReg .byte 0x04 0#32] }.pending = .writeReg .byte 0x04 0#32 :: [] ∧
    { idle with pending := [.readReg .word 0x06] }.pending = .readReg .word 0x06 :: [] := by decide

/-- The last cell of IN, the first that does not exist, BUSY, and reset. -/
theorem witness_HostWritesInput :
    let c : Config := { config with inCap := some 5 }
    (let s : State := { idle with config := c, pending := [.writeIn 4 9#8] }
     s.pending = .writeIn 4 9#8 :: [] ∧ s.engine ≠ .busy ∧ capacityHolds s.config.inCap (4 + 1) = true ∧
      s.rst = false) ∧
    (let s : State := { idle with config := c, pending := [.writeIn 5 9#8] }
     s.pending = .writeIn 5 9#8 :: [] ∧ s.engine ≠ .busy ∧ capacityHolds s.config.inCap (5 + 1) = false) ∧
    (let s : State := { decoding .group with pending := [.writeIn 4 9#8] }
     s.pending = .writeIn 4 9#8 :: [] ∧ s.engine = .busy) ∧
    (let s : State := { idle with config := c, rst := true, pending := [.writeIn 4 9#8] }
     s.pending = .writeIn 4 9#8 :: [] ∧ s.engine ≠ .busy ∧ capacityHolds s.config.inCap (4 + 1) = true ∧
      s.rst = true) := by decide

/-- The last cell of OUT, the first that does not exist, and each kind of STATE. -/
theorem witness_HostReadsOutput :
    let c : Config := { config with outCap := some 5 }
    (let s : State := { idle with config := c, pending := [.readOut 4] }
     s.pending = .readOut 4 :: [] ∧ capacityHolds s.config.outCap (4 + 1) = true ∧ s.engine = .idle) ∧
    (let s : State := { decoding .group with config := c, pending := [.readOut 4] }
     s.pending = .readOut 4 :: [] ∧ capacityHolds s.config.outCap (4 + 1) = true ∧ s.engine = .busy) ∧
    (let s : State := { idle with config := c, pending := [.readOut 5] }
     s.pending = .readOut 5 :: [] ∧ capacityHolds s.config.outCap (5 + 1) = false) ∧
    { idle with pending := [.readIn 0] }.pending = .readIn 0 :: [] ∧
    { idle with pending := [.writeOut 0 1#8] }.pending = .writeOut 0 1#8 :: [] := by decide

theorem witness_ResetInput :
    { decoding .group with pending := [.setRst true] }.pending = .setRst true :: [] ∧
    { idle with rst := true, pending := [.setRst false] }.pending = .setRst false :: [] ∧
    (let s : State := { idle with rst := true, pending := [.writeReg .word 0x00 1#32] }
     s.pending = .writeReg .word 0x00 1#32 :: [] ∧ 0x00 % 4 = 0 ∧ s.rst = true) := by decide

/-- At every place of a decode the invariant holds and the step goes on (for those that read IN, under a known byte). -/
theorem witness_InvariantKept :
    (Inv (decoding (.selector 2#2)) ∧ (next? (step (decoding (.selector 2#2)))).isSome = true) ∧
    (Inv (decoding .commit) ∧ (next? (step (decoding .commit))).isSome = true) := by
  refine ⟨⟨(inv_places _ (by simp [places])).1, rfl⟩, (inv_places _ (by simp [places])).1, rfl⟩

/-- A group that passes the check. -/
theorem witness_EngineReadsInBounds :
    Inv (decoding .group) ∧ (decoding .group).engine = .busy ∧ (decoding .group).pos = .group ∧
    (decoding .group).marginOk = true :=
  ⟨(inv_places _ (by simp [places])).1, rfl, rfl, by decide⟩

/-- The engine's turn raises TAIL_MARGIN; it also serves BlockCountUnreachable. -/
theorem witness_CursorWithinInput :
    let s : State := { decoding .group with inlen := 33#32 }
    Inv s ∧ s.engine = .busy ∧ (next? (engineTurn s)).map (·.cause) = some .tailMargin := by
  refine ⟨inv_of_place ⟨rfl, rfl, rfl, rfl⟩ rfl rfl ⟨rfl, rfl, rfl, rfl⟩ ?_, rfl, by decide⟩
  simp [DecodePlace, decoding, idle, State.reset, InColumn, InBlock, OperandsChecked, State.nextBlockCount, blockSize,
    roundUp, roundDown, headerBytes, ceilDiv]

end Sys2Proof.Tests
end

