-- ==== Sys2Proof/Proofs/StatusWords.lean ====
section
/-! STATUS and the completion output (R30, R198): the class of a cause, the fields of the word, what the invariants of
STATUS say of each STATE and each CAUSE, and the word that follows. -/

namespace Sys2Proof.Machine

/-! ### The class of a cause (R190) -/

theorem errClass_eq_none_iff (c : Cause) : c.errClass = .none ↔ c = .none := by
  cases c <;> decide

theorem errClass_eq_invalidArgument_iff (c : Cause) :
    c.errClass = .invalidArgument ↔ c ∈ [Cause.vsizeRange, .vsizeAlign, .blockCount] := by
  cases c <;> decide

theorem errClass_eq_corruptStream_iff (c : Cause) :
    c.errClass = .corruptStream ↔ c ∈ [Cause.shortBuffer, .badTag, .tailMargin] := by
  cases c <;> decide

/-! ### The fields of the word

Each field is read by dropping the fields below it, in pairs of a field and the reserved bits over it. -/

/-- A field between others reads back as itself. -/
theorem extractLsb'_append_append {u v w : Nat} (high : BitVec u) (field : BitVec v) (low : BitVec w) :
    (high ++ field ++ low).extractLsb' w v = field := by
  rw [BitVec.extractLsb'_append_eq_of_le le_rfl, Nat.sub_self, BitVec.extractLsb'_append_eq_right]

/-- Dropping the two lowest fields. -/
theorem extractLsb'_append_append_of_le {u v w start len : Nat} (high : BitVec u) (mid : BitVec v) (low : BitVec w)
    (h : w + v ≤ start) :
    (high ++ mid ++ low).extractLsb' start len = high.extractLsb' (start - w - v) len := by
  rw [BitVec.extractLsb'_append_eq_of_le (by omega), BitVec.extractLsb'_append_eq_of_le (by omega)]

theorem statusWord_extractLsb'_above_state (s : State) {start : Nat} (len : Nat) (h : 4 ≤ start) :
    s.statusWord.extractLsb' start len =
      (0#20 ++ s.cause.code ++ 0#2 ++ s.err.code).extractLsb' (start - 4) len :=
  extractLsb'_append_append_of_le _ 0#2 s.engine.code h

theorem statusWord_extractLsb'_above_err (s : State) {start : Nat} (len : Nat) (h : 8 ≤ start) :
    s.statusWord.extractLsb' start len = (0#20 ++ s.cause.code).extractLsb' (start - 8) len := by
  rw [statusWord_extractLsb'_above_state s len (by omega), extractLsb'_append_append_of_le _ _ _ (by omega)]
  rfl

@[simp] theorem statusWord_stateField (s : State) : s.statusWord.extractLsb' 0 2 = s.engine.code :=
  BitVec.extractLsb'_append_eq_right

@[simp] theorem statusWord_reserved_3_2 (s : State) : s.statusWord.extractLsb' 2 2 = 0#2 :=
  extractLsb'_append_append _ 0#2 s.engine.code

@[simp] theorem statusWord_errField (s : State) : s.statusWord.extractLsb' 4 2 = s.err.code := by
  rw [statusWord_extractLsb'_above_state s 2 le_rfl]
  exact BitVec.extractLsb'_append_eq_right

@[simp] theorem statusWord_reserved_7_6 (s : State) : s.statusWord.extractLsb' 6 2 = 0#2 := by
  rw [statusWord_extractLsb'_above_state s 2 (by decide)]
  exact extractLsb'_append_append _ 0#2 s.err.code

@[simp] theorem statusWord_causeField (s : State) : s.statusWord.extractLsb' 8 4 = s.cause.code := by
  rw [statusWord_extractLsb'_above_err s 4 le_rfl]
  exact BitVec.extractLsb'_append_eq_right

@[simp] theorem statusWord_reserved_31_12 (s : State) : s.statusWord.extractLsb' 12 20 = 0#20 := by
  rw [statusWord_extractLsb'_above_err s 20 (by decide)]
  exact BitVec.extractLsb'_append_eq_left

/-! ### The word in each STATE and for each CAUSE -/

/-- The word STATUS reads as in ERROR with a given cause. -/
def errorWord (c : Cause) : Word := 0#20 ++ c.code ++ 0#2 ++ c.errClass.code ++ 0#2 ++ EngineState.error.code

theorem Inv.statusConsistent {s : State} (h : Inv s) : StatusConsistent s := by
  obtain ⟨_, _, hstatus, _⟩ := h
  exact hstatus

namespace StatusConsistent

variable {s : State}

theorem engine_eq_error_iff (h : StatusConsistent s) : s.engine = .error ↔ s.cause ≠ .none := by
  obtain ⟨hstate, hclass⟩ := h
  rw [← hstate, hclass, ne_eq, errClass_eq_none_iff]

theorem err_eq_errClass (h : StatusConsistent s) : s.err = s.cause.errClass := by
  obtain ⟨_, hclass⟩ := h
  exact hclass

/-- Outside ERROR there is no cause and no class, so only the field of STATE is left of the word. -/
theorem statusWord_of_engine (h : StatusConsistent s) {e : EngineState} (he : s.engine = e) (hne : e ≠ .error) :
    s.statusWord = 0#30 ++ e.code := by
  have hcause : s.cause = .none := by_contra fun hc => hne (he ▸ h.engine_eq_error_iff.mpr hc)
  have herr : s.err = .none := by rw [h.err_eq_errClass, hcause, Cause.errClass]
  rw [State.statusWord, hcause, herr, he]
  rfl

/-- A cause fixes the class and the STATE, so it fixes the word. -/
theorem statusWord_of_cause (h : StatusConsistent s) {c : Cause} (hc : s.cause = c) (hne : c ≠ .none) :
    s.statusWord = errorWord c := by
  have hstate : s.engine = .error := h.engine_eq_error_iff.mpr (hc ▸ hne)
  rw [State.statusWord, h.err_eq_errClass, hstate, hc, errorWord]

/-- STATUS reads as one of the nine words of R30: one for each STATE but ERROR, one for each cause. -/
theorem statusWord_mem (h : StatusConsistent s) :
    s.statusWord ∈
      [0x000#32, 0x001#32, 0x002#32, 0x113#32, 0x213#32, 0x313#32, 0x423#32, 0x523#32, 0x623#32] := by
  by_cases hs : s.engine = .error
  · have hne : s.cause ≠ .none := h.engine_eq_error_iff.mp hs
    rw [h.statusWord_of_cause rfl hne]
    revert hne
    cases s.cause <;> decide
  · rw [h.statusWord_of_engine rfl hs]
    revert hs
    cases s.engine <;> decide

end StatusConsistent

theorem irq_eq_true_iff (s : State) : s.irq = true ↔ s.engine = .done ∨ s.engine = .error :=
  decide_eq_true_iff

/-- Settles O49: the class of ERR and its causes from `StatusConsistent`, the fields from the layout of the word, the
nine words from the STATE or the cause that fixes each. -/
theorem statusWords : Obligations.StatusWords := by
  refine ⟨⟨rfl, rfl, rfl⟩, ⟨rfl, rfl, rfl, rfl⟩, fun s hinv => ?_⟩
  have h : StatusConsistent s := hinv.statusConsistent
  have ⟨hstate, hclass⟩ := h
  refine ⟨hstate, ?_, ?_, h.statusWord_mem, statusWord_stateField s, statusWord_errField s, statusWord_causeField s,
    statusWord_reserved_3_2 s, statusWord_reserved_7_6 s, statusWord_reserved_31_12 s,
    fun hs => h.statusWord_of_engine hs (by decide), fun hs => h.statusWord_of_engine hs (by decide),
    fun hs => h.statusWord_of_engine hs (by decide), fun hc => h.statusWord_of_cause hc (by decide),
    fun hc => h.statusWord_of_cause hc (by decide), fun hc => h.statusWord_of_cause hc (by decide),
    fun hc => h.statusWord_of_cause hc (by decide), fun hc => h.statusWord_of_cause hc (by decide),
    fun hc => h.statusWord_of_cause hc (by decide), irq_eq_true_iff s⟩
  · rw [hclass, errClass_eq_invalidArgument_iff]
  · rw [hclass, errClass_eq_corruptStream_iff]

end Sys2Proof.Machine
end

