-- ==== Sys2Proof/Proofs/GroupDecoder.lean ====
section
/-! The group decoder (40_group_decoder.md). A packed group in closed form: residual `j` as R116 gives it, from which follow
what a group consumes and reads (R117) and that the vectorised decoder agrees with the scalar one (R124). And the step of
`GRP.Z` (R111). -/

namespace Sys2Proof.Machine

/-! ### Counting escapes -/

theorem length_filter_range_eq_count (p : Nat → Bool) (n : Nat) :
    ((List.range n).filter p).length = Nat.count (fun t => p t = true) n := by
  rw [Nat.count, ← List.countP_eq_length_filter]
  simp only [Bool.decide_eq_true]

section Residuals

variable (form : CodeForm) (order : CodeOrder) (rd : Nat → Byte) (a : Nat)

theorem escapesBefore_eq_count (j : Nat) :
    escapesBefore form order rd a j = Nat.count (fun t => form.escapes (codeOf form order rd a t) = true) j :=
  length_filter_range_eq_count _ j

theorem escapesBefore_zero : escapesBefore form order rd a 0 = 0 := rfl

theorem escapesBefore_le (j : Nat) : escapesBefore form order rd a j ≤ j := by
  rw [escapesBefore_eq_count]
  exact Nat.count_le _

theorem escapesBefore_succ_of_escape {j : Nat} (h : form.escapes (codeOf form order rd a j) = true) :
    escapesBefore form order rd a (j + 1) = escapesBefore form order rd a j + 1 := by
  simp only [escapesBefore_eq_count, Nat.count_succ, if_pos h]

theorem escapesBefore_succ_of_literal {j : Nat} (h : ¬ form.escapes (codeOf form order rd a j) = true) :
    escapesBefore form order rd a (j + 1) = escapesBefore form order rd a j := by
  simp only [escapesBefore_eq_count, Nat.count_succ, if_neg h, Nat.add_zero]

/-- The escapes before a code are those before an earlier code and those from there on. -/
theorem escapesBefore_add (first i : Nat) :
    escapesBefore form order rd a (first + i) = escapesBefore form order rd a first +
      Nat.count (fun t => form.escapes (codeOf form order rd a (first + t)) = true) i := by
  simp only [escapesBefore_eq_count, Nat.count_add]

/-! ### The closed form of a packed group (R116) -/

/-- Residual `j` of a packed group at `a`: the code, or for an escape the overflow byte that comes after one for each escape
before it. -/
def residualOf (j : Nat) : Byte :=
  if form.escapes (codeOf form order rd a j) then rd (a + form.packedBytes + escapesBefore form order rd a j)
  else codeOf form order rd a j

/-- The loop of R112 and R113 from code `j`, where the overflow cursor has passed one byte for each escape before `j`. -/
theorem decodeCodes_eq (count j : Nat) :
    decodeCodes form order rd a count j (a + form.packedBytes + escapesBefore form order rd a j) =
      ((List.range' j count).map (residualOf form order rd a),
        a + form.packedBytes + escapesBefore form order rd a (j + count)) := by
  induction count generalizing j with
  | zero => rfl
  | succ count ih =>
    have ih := ih (j + 1)
    rw [decodeCodes, ← codeOf, List.range'_succ, List.map_cons, residualOf, Nat.add_comm count 1, ← Nat.add_assoc j]
    by_cases h : form.escapes (codeOf form order rd a j) = true
    · rw [escapesBefore_succ_of_escape form order rd a h, ← Nat.add_assoc] at ih
      rw [if_pos h, if_pos h, ih]
    · rw [escapesBefore_succ_of_literal form order rd a h] at ih
      rw [if_neg h, if_neg h, ih]

/-! ### `DecodeGroup` by selector -/

theorem decodeGroup_zero : decodeGroup order rd a 0#2 = (List.replicate 16 0#8, a) := rfl

theorem decodeGroup_raw : decodeGroup order rd a 3#2 = ((List.range 16).map fun j => rd (a + j), a + 16) := rfl

theorem decodeGroup_selector :
    decodeGroup order rd a form.selector =
      ((List.range 16).map (residualOf form order rd a), a + form.packedBytes + escapesBefore form order rd a 16) := by
  have closed : decodeCodes form order rd a 16 0 (a + form.packedBytes) = _ := decodeCodes_eq form order rd a 16 0
  rw [← List.range_eq_range', Nat.zero_add] at closed
  rw [← closed]
  cases form <;> rfl

end Residuals

/-- Settles O17: entry `j` of the closed form of a packed group. -/
theorem overflowBytesInCodeOrder : Obligations.OverflowBytesInCodeOrder := by
  intro form order rd a j hj
  rw [decodeGroup_selector, List.getElem?_map, List.getElem?_range hj]
  rfl

/-- A selector is `GRP.Z`, one of the two packed forms, or `GRP.B8` (R85). -/
theorem selector_cases (sel : BitVec 2) : sel = 0#2 ∨ (∃ form : CodeForm, sel = form.selector) ∨ sel = 3#2 := by
  have h : sel = 0#2 ∨ sel = CodeForm.b2.selector ∨ sel = CodeForm.b4.selector ∨ sel = 3#2 := by
    revert sel; decide
  rcases h with h | h | h | h
  · exact .inl h
  · exact .inr (.inl ⟨_, h⟩)
  · exact .inr (.inl ⟨_, h⟩)
  · exact .inr (.inr h)

/-! ### What a group consumes and reads (R117) -/

theorem CodeForm.packedBytes_le (form : CodeForm) : form.packedBytes ≤ 8 := by
  cases form <;> decide

/-- The packed bytes hold sixteen codes. -/
theorem CodeForm.div_perByte_lt (form : CodeForm) {j : Nat} (h : j < 16) : j / form.perByte < form.packedBytes := by
  cases form <;> simp only [CodeForm.perByte, CodeForm.packedBytes] <;> omega

theorem length_decodeGroup (order : CodeOrder) (rd : Nat → Byte) (a : Nat) (sel : BitVec 2) :
    (decodeGroup order rd a sel).1.length = 16 := by
  rcases selector_cases sel with rfl | ⟨form, rfl⟩ | rfl
  · rw [decodeGroup_zero, List.length_replicate]
  · rw [decodeGroup_selector, List.length_map, List.length_range]
  · rw [decodeGroup_raw, List.length_map, List.length_range]

/-- A group ends at most 24 bytes on: 8 packed bytes and 16 overflow bytes. -/
theorem decodeGroup_end_bounds (order : CodeOrder) (rd : Nat → Byte) (a : Nat) (sel : BitVec 2) :
    a ≤ (decodeGroup order rd a sel).2 ∧ (decodeGroup order rd a sel).2 ≤ a + 24 := by
  rcases selector_cases sel with rfl | ⟨form, rfl⟩ | rfl
  · simp only [decodeGroup_zero]; omega
  · have hpacked := form.packedBytes_le
    have hescapes := escapesBefore_le form order rd a 16
    simp only [decodeGroup_selector]; omega
  · simp only [decodeGroup_raw]; omega

section Window

variable {rd rd' : Nat → Byte} {a : Nat} (same : ∀ x, a ≤ x → x < a + 24 → rd' x = rd x)
include same

theorem codeOf_congr (form : CodeForm) (order : CodeOrder) {j : Nat} (hj : j < 16) :
    codeOf form order rd' a j = codeOf form order rd a j := by
  have hplace := form.div_perByte_lt hj
  have hpacked := form.packedBytes_le
  rw [codeOf, codeOf, same _ (Nat.le_add_right ..) (by omega)]

theorem escapesBefore_congr (form : CodeForm) (order : CodeOrder) {j : Nat} (hj : j ≤ 16) :
    escapesBefore form order rd' a j = escapesBefore form order rd a j := by
  unfold escapesBefore
  refine congrArg List.length (List.filter_congr fun t ht => ?_)
  rw [codeOf_congr same form order (Nat.lt_of_lt_of_le (List.mem_range.mp ht) hj)]

theorem residualOf_congr (form : CodeForm) (order : CodeOrder) {j : Nat} (hj : j < 16) :
    residualOf form order rd' a j = residualOf form order rd a j := by
  have hpacked := form.packedBytes_le
  have hescapes := escapesBefore_le form order rd a j
  rw [residualOf, residualOf, codeOf_congr same form order hj, escapesBefore_congr same form order hj.le,
    same _ (by omega) (by omega)]

theorem decodeGroup_congr (order : CodeOrder) (sel : BitVec 2) :
    decodeGroup order rd' a sel = decodeGroup order rd a sel := by
  rcases selector_cases sel with rfl | ⟨form, rfl⟩ | rfl
  · rfl
  · rw [decodeGroup_selector, decodeGroup_selector, escapesBefore_congr same form order le_rfl]
    refine congrArg (·, _) (List.map_congr_left fun j hj => ?_)
    exact residualOf_congr same form order (List.mem_range.mp hj)
  · rw [decodeGroup_raw, decodeGroup_raw]
    refine congrArg (·, _) (List.map_congr_left fun j hj => ?_)
    have hj := List.mem_range.mp hj
    exact same _ (by omega) (by omega)

end Window

/-- Settles O16: the end of each form, the bound over all of them, and the window of 24 bytes. -/
theorem groupConsumption : Obligations.GroupConsumption := by
  intro order rd a sel
  have ⟨hstart, hend⟩ := decodeGroup_end_bounds order rd a sel
  refine ⟨length_decodeGroup order rd a sel, ?_, ?_, ?_, ?_, fun form => escapesBefore_le form order rd a 16, hstart,
    hend, fun inlen hmargin => by omega, fun rd' same => decodeGroup_congr same order sel⟩
  · rintro rfl
    rw [decodeGroup_zero]
  · rintro rfl
    exact congrArg Prod.snd (decodeGroup_selector .b2 order rd a)
  · rintro rfl
    exact congrArg Prod.snd (decodeGroup_selector .b4 order rd a)
  · rintro rfl
    rw [decodeGroup_raw]

/-! ### The vectorised decoder (R121, R122)

Each half is eight lanes from code `first` on, 0 or 8. Its mask, its table entries and its blend are stated over `first`. -/

theorem maskOfLanes_testBit (bs : List Bool) (i : Nat) : (maskOfLanes bs).testBit i = bs.getD i false := by
  induction bs generalizing i with
  | nil => simp [maskOfLanes]
  | cons b bs ih =>
    have hbit : maskOfLanes (b :: bs) = Nat.bit b (maskOfLanes bs) := by
      rw [maskOfLanes, Nat.bit_val, Nat.add_comm]
    rw [hbit]
    cases i with
    | zero => rw [Nat.testBit_bit_zero]; rfl
    | succ i => rw [Nat.testBit_bit_succ, ih]; rfl

theorem escapeCount_eq_count (mask : BitVec 8) : escapeCount mask = Nat.count (fun t => mask.getLsbD t = true) 8 :=
  length_filter_range_eq_count _ 8

theorem shuffleIndex_of_set {mask : BitVec 8} {i : Nat} (h : mask.getLsbD i = true) :
    shuffleIndex mask i = some (Nat.count (fun t => mask.getLsbD t = true) i) := by
  rw [shuffleIndex, if_pos h, length_filter_range_eq_count]

theorem shuffleIndex_of_clear {mask : BitVec 8} {i : Nat} (h : ¬ mask.getLsbD i = true) :
    shuffleIndex mask i = none := if_neg h

section Vectorised

variable (form : CodeForm) (order : CodeOrder) (rd : Nat → Byte) (a first : Nat)

/-- The eight lanes from code `first` on. -/
def halfLanes : List Byte := (List.range 8).map fun i => codeOf form order rd a (first + i)

/-- The escape mask of the eight lanes from code `first` on. -/
def halfMask : BitVec 8 := laneMask form (halfLanes form order rd a first)

theorem codeLanes_take : (codeLanes form order rd a).take 8 = halfLanes form order rd a 0 := rfl

theorem codeLanes_drop : (codeLanes form order rd a).drop 8 = halfLanes form order rd a 8 := rfl

theorem laneMask_halfLanes :
    laneMask form (halfLanes form order rd a first) = halfMask form order rd a first := rfl

theorem length_halfLanes : (halfLanes form order rd a first).length = 8 := rfl

theorem halfMask_getLsbD {i : Nat} (hi : i < 8) :
    (halfMask form order rd a first).getLsbD i = form.escapes (codeOf form order rd a (first + i)) := by
  rw [halfMask, laneMask, BitVec.getLsbD_ofNat, maskOfLanes_testBit, halfLanes, List.map_map, List.getD_eq_getElem?_getD,
    List.getElem?_map, List.getElem?_range hi, decide_eq_true hi]
  rfl

/-- The set bits of the mask below lane `i` are the escapes of the half before code `first + i`. -/
theorem escapesBefore_add_count_halfMask {i : Nat} (hi : i ≤ 8) :
    escapesBefore form order rd a first + Nat.count (fun t => (halfMask form order rd a first).getLsbD t = true) i =
      escapesBefore form order rd a (first + i) := by
  rw [escapesBefore_add, ← length_filter_range_eq_count, ← length_filter_range_eq_count]
  congr 2
  refine List.filter_congr fun t ht => ?_
  exact halfMask_getLsbD form order rd a first (Nat.lt_of_lt_of_le (List.mem_range.mp ht) hi)

theorem escapesBefore_add_escapeCount :
    escapesBefore form order rd a first + escapeCount (halfMask form order rd a first) =
      escapesBefore form order rd a (first + 8) := by
  rw [escapeCount_eq_count, escapesBefore_add_count_halfMask form order rd a first le_rfl]

/-- A blended half holds its residuals, when its offset is the number of escapes before the half. -/
theorem blendHalf_halfLanes {offset : Nat} (hoffset : offset = escapesBefore form order rd a first) :
    blendHalf rd (a + form.packedBytes) offset (halfMask form order rd a first) (halfLanes form order rd a first) =
      (List.range 8).map fun i => residualOf form order rd a (first + i) := by
  refine List.ext_getElem (by simp [blendHalf, length_halfLanes]) fun i _ hi => ?_
  have hi : i < 8 := by simpa using hi
  have hmask := halfMask_getLsbD form order rd a first hi
  simp only [blendHalf, halfLanes, List.getElem_map, List.getElem_zipIdx, List.getElem_range, Nat.zero_add, residualOf]
  by_cases h : form.escapes (codeOf form order rd a (first + i)) = true
  · rw [shuffleIndex_of_set (hmask.trans h), if_pos h, hoffset,
      ← escapesBefore_add_count_halfMask form order rd a first hi.le]
  · rw [shuffleIndex_of_clear (hmask ▸ h), if_neg h]

/-- Both halves together: the closed form of the group. -/
theorem vectorCodes_eq :
    vectorCodes form order rd a =
      ((List.range 16).map (residualOf form order rd a), a + form.packedBytes + escapesBefore form order rd a 16) := by
  have hlow := escapesBefore_add_escapeCount form order rd a 0
  have hhigh := escapesBefore_add_escapeCount form order rd a 8
  rw [escapesBefore_zero, Nat.zero_add, Nat.zero_add] at hlow
  simp only [vectorCodes, codeLanes_take, codeLanes_drop, laneMask_halfLanes, hlow,
    blendHalf_halfLanes form order rd a 0 (escapesBefore_zero ..).symm,
    blendHalf_halfLanes form order rd a 8 rfl, Nat.add_assoc (a + form.packedBytes), hhigh]
  -- the residuals 0 .. 7 and 8 .. 15, one list after the other
  rfl

end Vectorised

/-- Settles O18: a packed group has the same closed form under both decoders; the other two selectors have one rule. -/
theorem vectorisedEqualsScalar : Obligations.VectorisedEqualsScalar := by
  intro order rd a sel
  rcases selector_cases sel with rfl | ⟨form, rfl⟩ | rfl
  · rfl
  · have hvec : decodeGroupVectorised order rd a form.selector = vectorCodes form order rd a := by cases form <;> rfl
    rw [hvec, vectorCodes_eq, decodeGroup_selector]
  · rfl

/-! ### `GRP.Z` (R111) -/

/-- Store a run of bytes in COL from cell `a` on. -/
def State.writeColRun (s : State) (a : Nat) (vs : List Byte) : State := { s with col := s.col.putRun a vs }

theorem writeColRun_cell_inside (s : State) (a : Nat) (vs : List Byte) {x : Nat} (h : x < vs.length) :
    (s.writeColRun a vs).cell .col (a + x) = vs[x] := by
  simp only [State.cell_eq, State.bank, State.writeColRun, Memory.get?_putRun_inside _ _ _ _ h, Option.getD_some]

theorem writeColRun_cell_outside (s : State) (a : Nat) (vs : List Byte) {x : Nat} (h : x < a ∨ a + vs.length ≤ x) :
    (s.writeColRun a vs).cell .col x = s.cell .col x := by
  simp only [State.cell_eq, State.bank, State.writeColRun, Memory.get?_putRun_outside _ _ _ _ h, State.unlisted]

theorem endGroup_sameCells_col (a' : Nat) (s : State) : SameCells .col s (endGroup a' s) := by
  rcases endGroup_cases a' s with ⟨_, e⟩ | ⟨_, e⟩ <;> rw [e] <;> exact State.cell_congr rfl rfl rfl

/-- The end of a group leaves the variables of a packed group alone. -/
theorem endGroup_packedLoop (a' : Nat) (s : State) :
    (endGroup a' s).form = s.form ∧ (endGroup a' s).packed = s.packed ∧ (endGroup a' s).ov = s.ov := by
  rcases endGroup_cases a' s with ⟨_, e⟩ | ⟨_, e⟩ <;> rw [e] <;> exact ⟨rfl, rfl, rfl⟩

/-- A run stored in COL before the end of the group shows in COL only. -/
theorem endGroup_writeColRun (a' : Nat) (s : State) (a : Nat) (vs : List Byte) :
    let t := endGroup a' (s.writeColRun a vs)
    AfterGroup a' s t ∧ SameInGroup s t ∧ t.form = s.form ∧ t.packed = s.packed ∧ t.ov = s.ov :=
  ⟨endGroup_afterGroup a' (s.writeColRun a vs), endGroup_sameInGroup a' (s.writeColRun a vs),
    endGroup_packedLoop a' (s.writeColRun a vs)⟩

theorem exec_grpZ (s : State) :
    exec .grpZ s = .next (endGroup s.cur (s.writeColRun (16 * s.g) (List.replicate 16 0#8))) := rfl

/-- Settles O8: the run of zeros gives the cells of COL, and the end of the group at the cursor everything else. -/
theorem zeroGroup : Obligations.ZeroGroup := by
  intro s
  have hcol := endGroup_sameCells_col s.cur (s.writeColRun (16 * s.g) (List.replicate 16 0#8))
  refine ⟨_, exec_grpZ s, fun x hx => ?_, fun x hx => ?_, endGroup_writeColRun ..⟩
  · rw [hcol, writeColRun_cell_inside _ _ _ (by simpa using hx), List.getElem_replicate]
  · rw [hcol, writeColRun_cell_outside _ _ _ (by simpa using hx)]

end Sys2Proof.Machine
end

