-- ==== Sys2Proof/Proofs/PlaneDecoder.lean ====
section
/-! The byte-plane decoder (41_byte_plane_decoder.md). The margin check before a group and the turn that follows it
(R134, R135); and that no place of a decode reads beyond INLEN or commits beyond OUT_CAP, so that the engine's turn always
answers a next state (R136). -/

namespace Sys2Proof.Machine

/-! ### Capacities (U5) -/

theorem capacityHolds_of_le {capacity : Option Nat} {m n : Nat} (h : capacityHolds capacity n = true) (hle : m ≤ n) :
    capacityHolds capacity m = true := by
  cases capacity with
  | none => rfl
  | some c => exact decide_eq_true (hle.trans (of_decide_eq_true h))

theorem capacitiesHold_iff (s : State) :
    s.capacitiesHold = true ↔
      capacityHolds s.config.inCap s.inlen.toNat = true ∧
      capacityHolds s.config.outCap (s.vcount.toNat * s.vsize.toNat) = true := by
  rw [State.capacitiesHold, Bool.and_eq_true]

/-- A byte below INLEN is there for the engine to read (R11, R50). -/
theorem presentIn_of_lt {s : State} (hcap : s.capacitiesHold = true) (slot : Slot) {a : Nat} (ha : a < s.inlen.toNat) :
    s.presentIn slot a = .element slot ((s.cell .input a).setWidth 32) := by
  obtain ⟨hin, _⟩ := (capacitiesHold_iff s).mp hcap
  rw [State.presentIn, if_pos ha, if_pos (capacityHolds_of_le hin ha)]

theorem presentIn_ne_missing {s : State} (hcap : s.capacitiesHold = true) (slot : Slot) {a : Nat}
    (ha : a < s.inlen.toNat) (reason : Fault) : s.presentIn slot a ≠ .missing reason := by
  rw [presentIn_of_lt hcap slot ha]
  exact Presented.noConfusion

/-! ### The margin check (R134, R135) -/

theorem marginOk_iff (s : State) : s.marginOk = true ↔ s.cur + 32 ≤ s.inlen.toNat := by
  rw [State.marginOk, decide_eq_true_iff]
  simp only [Config.tailMargin]
  omega

theorem marginOk_eq_false_iff (s : State) :
    s.marginOk = false ↔ s.inlen.toNat < s.cur ∨ s.inlen.toNat - s.cur < 32 := by
  rw [← Bool.not_eq_true, marginOk_iff]
  omega

theorem engineTurn_group {s : State} (hrst : s.rst = false) (hbusy : s.engine = .busy) (hpos : s.pos = .group) :
    engineTurn s = if s.marginOk then runElement s else .next (takeException .tailMargin s) := by
  rw [engineTurn, if_neg (by simp [hrst, hbusy]), hpos]

/-- At a group the element is its header byte, and every byte is a header (R84, R99). -/
theorem runElement_header {s : State} (hpos : s.pos = .group) (hcap : s.capacitiesHold = true)
    (hhdr : s.hdr + s.g / 4 < s.inlen.toNat) :
    ∃ i, decode .header ((s.cell .input (s.hdr + s.g / 4)).setWidth 32) = .ok i ∧ runElement s = exec i s := by
  have hpresented : s.presented = .element .header ((s.cell .input (s.hdr + s.g / 4)).setWidth 32) := by
    rw [State.presented, hpos]
    exact presentIn_of_lt hcap .header hhdr
  exact ⟨_, rfl, by rw [runElement, hpresented]; rfl⟩

/-- Settles O23: the turn at a group is the margin check, then the header byte. -/
theorem marginCheckBeforeEveryGroup : Obligations.MarginCheckBeforeEveryGroup := by
  intro s hrun hpos
  have ⟨hbusy, hrst, _⟩ := hrun
  have hturn := (step_running hrun).trans (engineTurn_group hrst hbusy hpos)
  refine ⟨fun hshort => ?_, rfl, fun hmargin hcap hhdr => ?_⟩
  · rw [hturn, (marginOk_eq_false_iff s).mpr hshort, if_neg Bool.false_ne_true]
  · obtain ⟨i, hdecode, hexec⟩ := runElement_header hpos hcap hhdr
    rw [hturn, if_pos ((marginOk_iff s).mpr hmargin)]
    exact ⟨i, hdecode, hexec⟩

/-! ### What a decode reads is present (R136) -/

theorem Inv.decodePlace {s : State} (h : Inv s) (hbusy : s.engine = .busy) :
    s.capacitiesHold = true ∧ DecodePlace s := by
  obtain ⟨_, _, _, _, _, _, hdecode⟩ := h
  exact hdecode hbusy

theorem div_four_lt_headerBytes {g groups : Nat} (h : g < groups) : g / 4 < headerBytes groups := by
  simp only [headerBytes, ceilDiv, Config.selPerHdr]
  omega

/-- The header byte of every group of a column lies below the cursor. -/
theorem InColumn.header_lt_cur {s : State} (h : InColumn s) : s.hdr + s.g / 4 < s.cur := by
  obtain ⟨_, hgroup, hregion⟩ := h
  have := div_four_lt_headerBytes hgroup
  omega

theorem InPacked.packedByte_lt_inlen {s : State} (h : InPacked s) : s.cur + s.j / s.form.perByte < s.inlen.toNat := by
  obtain ⟨⟨_, hmargin⟩, hj, _, _⟩ := h
  have hplace := s.form.div_perByte_lt hj
  have hpacked := s.form.packedBytes_le
  omega

/-- Of the 32 bytes a packed group is granted it reads at most 8 packed bytes and 16 overflow bytes. -/
theorem InPacked.overflow_lt_inlen {s : State} (h : InPacked s) : s.ov < s.inlen.toNat := by
  obtain ⟨⟨_, hmargin⟩, hj, _, hov⟩ := h
  have hpacked := s.form.packedBytes_le
  omega

/-- Every place that reads IN reads below INLEN: the tag and the snapshot by the operand checks, the header byte below
the cursor (even where the margin check fails), the bytes of a group inside its margin. -/
theorem DecodePlace.presented_ne_missing {s : State} (hplace : DecodePlace s) (hcap : s.capacitiesHold = true)
    (reason : Fault) : s.presented ≠ .missing reason := by
  cases hpos : s.pos <;> simp only [DecodePlace, hpos] at hplace <;> simp only [State.presented, hpos]
  case tag =>
    obtain ⟨⟨_, _, _, hlen⟩, _⟩ := hplace
    exact presentIn_ne_missing hcap _ (by omega) reason
  case snapshot =>
    obtain ⟨⟨_, _, _, hlen⟩, _, hk⟩ := hplace
    exact presentIn_ne_missing hcap _ (by omega) reason
  case group =>
    obtain ⟨hcolumn, hcur⟩ := hplace
    exact presentIn_ne_missing hcap _ (hcolumn.header_lt_cur.trans_le hcur) reason
  case packed =>
    obtain ⟨hpacked, _⟩ := hplace
    exact presentIn_ne_missing hcap _ hpacked.packedByte_lt_inlen reason
  case overflow => exact presentIn_ne_missing hcap _ hplace.overflow_lt_inlen reason
  case raw =>
    obtain ⟨⟨_, hmargin⟩, hj⟩ := hplace
    exact presentIn_ne_missing hcap _ (by omega) reason
  all_goals exact Presented.noConfusion

/-! ### The turn goes on -/

/-- No element stops the machine: only a START in IDLE can be refused (U5). -/
theorem exec_next_of_not_idle {s : State} (h : s.engine ≠ .idle) (i : Instr) : ∃ t, exec i s = .next t := by
  cases i with
  | cmdStart r => exact ⟨s, if_neg h⟩
  | cmdClear r =>
    by_cases hover : s.engine = .done ∨ s.engine = .error
    · exact ⟨_, if_pos hover⟩
    · exact ⟨_, if_neg hover⟩
  | _ => exact ⟨_, rfl⟩

theorem runBits_next_of_not_idle {s : State} (h : s.engine ≠ .idle) (slot : Slot) (bits : Word) :
    ∃ t, runBits slot bits s = .next t := by
  unfold runBits
  cases decode slot bits with
  | ok i => exact exec_next_of_not_idle h i
  | error e => cases e; exact ⟨_, rfl⟩

theorem runElement_next {s : State} (h : s.engine ≠ .idle) (hpresent : ∀ reason, s.presented ≠ .missing reason) :
    ∃ t, runElement s = .next t := by
  unfold runElement
  cases hp : s.presented with
  | element slot bits => exact runBits_next_of_not_idle h slot bits
  | missing reason => exact absurd hp (hpresent reason)
  | internal => exact ⟨s, rfl⟩

/-- The block under way ends at a vertex of the operand VCOUNT (R172), so its bytes fit OUT_CAP when the operands do. -/
theorem InBlock.commitBlock_eq {s : State} (h : InBlock s) (hcap : s.capacitiesHold = true) :
    commitBlock s = .next (committed s) := by
  obtain ⟨_, _, hvoff, hcount, _, _⟩ := h
  obtain ⟨_, hout⟩ := (capacitiesHold_iff s).mp hcap
  have hend : s.voff + s.bcount ≤ s.vcount.toNat := by
    rw [State.nextBlockCount] at hcount
    omega
  rw [commitBlock, if_pos (capacityHolds_of_le hout (Nat.mul_le_mul_right _ hend))]

/-- The commit goes on by the capacities, an element because it is present; the engine's other actions always do. -/
theorem Inv.engineTurn_next {s : State} (h : Inv s) : ∃ t, engineTurn s = .next t := by
  unfold engineTurn
  by_cases hrest : s.rst = true ∨ s.engine ≠ .busy
  · exact ⟨s, if_pos hrest⟩
  · have hbusy : s.engine = .busy := by_contra fun hne => hrest (.inr hne)
    obtain ⟨hcap, hplace⟩ := h.decodePlace hbusy
    have helement := runElement_next (by simp [hbusy]) (hplace.presented_ne_missing hcap)
    rw [if_neg hrest]
    cases hpos : s.pos with
    | operands | blockLoop | column => exact ⟨_, rfl⟩
    | commit =>
      simp only [DecodePlace, hpos] at hplace
      obtain ⟨hblock, _⟩ := hplace
      exact ⟨_, hblock.commitBlock_eq hcap⟩
    | group =>
      cases hmargin : s.marginOk with
      | true => exact helement
      | false => exact ⟨_, rfl⟩
    | _ => exact helement

/-- Settles O59: the turn goes on, the header byte lies below the cursor, and what the place presents is there. -/
theorem engineReadsInBounds : Obligations.EngineReadsInBounds := by
  intro s hinv
  refine ⟨hinv.engineTurn_next, fun hbusy hpos hmargin => ?_, fun hbusy _ => ?_⟩
  · obtain ⟨_, hplace⟩ := hinv.decodePlace hbusy
    simp only [DecodePlace, hpos] at hplace
    obtain ⟨hcolumn, _⟩ := hplace
    exact ⟨(marginOk_iff s).mp hmargin, hcolumn.header_lt_cur⟩
  · obtain ⟨hcap, hplace⟩ := hinv.decodePlace hbusy
    exact hplace.presented_ne_missing hcap

end Sys2Proof.Machine
end

