-- ==== Sys2Proof/Proofs/BlockDecoder.lean ====
section
/-! The block decoder (42_block_decoder.md). `unzigzag` on even and odd residuals and its inverse (R146, R147); the bytes
a commit puts in OUT and LASTV (R156, R157); and that the counts the block loop computes never raise BLOCK_COUNT
(R158). -/

namespace Sys2Proof.Machine

/-! ### `unzigzag` (R146, R147) -/

theorem unzigzag_of_even {v : Byte} (h : v &&& 1#8 = 0#8) : unzigzag v = v >>> 1 := by
  rw [unzigzag, h, BitVec.neg_zero, BitVec.zero_xor]

/-- For an odd residual `-(v & 1)` is all ones, and its exclusive or is the complement. -/
theorem unzigzag_of_odd {v : Byte} (h : v &&& 1#8 = 1#8) : unzigzag v = 255#8 - (v >>> 1) := by
  have hones : (255#8 : Byte) = BitVec.allOnes 8 := rfl
  rw [unzigzag, h, BitVec.neg_one_eq_allOnes, BitVec.allOnes_xor, hones, BitVec.allOnes_sub_eq_not]

/-- Settles O25: by the parity of `v`. -/
theorem unzigzagFormula : Obligations.UnzigzagFormula :=
  fun _ => ⟨rfl, unzigzag_of_even, unzigzag_of_odd, rfl, rfl, rfl, rfl⟩

/-- A residual is `2m` or `2m + 1` (R94). -/
theorem residual_cases (v : Byte) : ∃ m : BitVec 7, v = m ++ 0#1 ∨ v = m ++ 1#1 := by
  have hsplit : v = v.extractLsb' 1 7 ++ v.extractLsb' 0 1 :=
    (BitVec.extractLsb'_append_extractLsb' (w := 7) (len := 1)).symm
  refine ⟨v.extractLsb' 1 7, ?_⟩
  rcases BitVec.eq_zero_or_eq_one (v.extractLsb' 0 1) with hbit | hbit <;> rw [hbit] at hsplit
  · exact .inl hsplit
  · exact .inr hsplit

theorem append_and_one (m : BitVec 7) (b : BitVec 1) : (m ++ b : Byte) &&& 1#8 = b.setWidth 8 := by
  have hone : (1#8 : Byte) = 0#7 ++ 1#1 := rfl
  have hbit : b &&& 1#1 = b := BitVec.and_allOnes
  rw [hone, BitVec.and_append, BitVec.and_zero, hbit]
  exact (BitVec.setWidth_eq_append (by decide)).symm

theorem append_ushiftRight_one (m : BitVec 7) (b : BitVec 1) : (m ++ b : Byte) >>> 1 = m.setWidth 8 := by
  apply BitVec.eq_of_toNat_eq
  have hm := m.isLt
  have hb := b.isLt
  rw [BitVec.toNat_ushiftRight, BitVec.toNat_append, BitVec.toNat_setWidth, Nat.shiftRight_or_distrib,
    Nat.shiftLeft_shiftRight, Nat.shiftRight_eq_div_pow, Nat.div_eq_of_lt hb, Nat.or_zero, Nat.mod_eq_of_lt (by omega)]

theorem unzigzag_append_zero (m : BitVec 7) : unzigzag (m ++ 0#1) = positiveDelta m := by
  rw [unzigzag_of_even (append_and_one m 0#1), append_ushiftRight_one, positiveDelta]

theorem unzigzag_append_one (m : BitVec 7) : unzigzag (m ++ 1#1) = negativeDelta m := by
  rw [unzigzag_of_odd (append_and_one m 1#1), append_ushiftRight_one, negativeDelta]

theorem positiveDelta_toNat (m : BitVec 7) : (positiveDelta m).toNat = m.toNat := by
  rw [positiveDelta, BitVec.toNat_setWidth]
  omega

theorem negativeDelta_toNat (m : BitVec 7) : (negativeDelta m).toNat = 255 - m.toNat := by
  rw [negativeDelta, BitVec.toNat_sub, BitVec.toNat_setWidth, BitVec.toNat_ofNat]
  omega

/-- The residual whose delta is `d`: `2d` below 128, `2(255 - d) + 1` from there on (R147). -/
def zigzag (d : Byte) : Byte :=
  if d.toNat < 128 then BitVec.ofNat 7 d.toNat ++ 0#1 else BitVec.ofNat 7 (255 - d.toNat) ++ 1#1

theorem zigzag_unzigzag (v : Byte) : zigzag (unzigzag v) = v := by
  obtain ⟨m, rfl | rfl⟩ := residual_cases v
  · rw [unzigzag_append_zero, zigzag, positiveDelta_toNat, if_pos m.isLt, BitVec.ofNat_toNat, BitVec.setWidth_eq]
  · have hm := m.isLt
    rw [unzigzag_append_one, zigzag, negativeDelta_toNat, if_neg (by omega), Nat.sub_sub_self (by omega),
      BitVec.ofNat_toNat, BitVec.setWidth_eq]

theorem unzigzag_zigzag (d : Byte) : unzigzag (zigzag d) = d := by
  apply BitVec.eq_of_toNat_eq
  have hd := d.isLt
  rw [zigzag]
  split
  · rw [unzigzag_append_zero, positiveDelta_toNat, BitVec.toNat_ofNat]
    omega
  · rw [unzigzag_append_one, negativeDelta_toNat, BitVec.toNat_ofNat]
    omega

/-- Settles O26: `zigzag` is the inverse, and each half's delta is read as an unsigned and as a signed byte. -/
theorem unzigzagBijective : Obligations.UnzigzagBijective := by
  refine ⟨Function.bijective_iff_has_inverse.mpr ⟨zigzag, zigzag_unzigzag, unzigzag_zigzag⟩, fun m => ?_, fun m => ?_,
    rfl, rfl⟩ <;> have hm := m.isLt
  · rw [unzigzag_append_zero, BitVec.toInt_eq_toNat_cond, positiveDelta_toNat, if_pos (by omega)]
    exact ⟨rfl, rfl⟩
  · rw [unzigzag_append_one, BitVec.toInt_eq_toNat_cond, negativeDelta_toNat, if_neg (by omega)]
    exact ⟨rfl, by omega⟩

/-! ### The commit (R156, R157) -/

section StoredRun

variable {s t : State} {bank : Bank} {a : Nat} {vs : List Byte} (stored : t.bank bank = (s.bank bank).putRun a vs)
include stored

/-- Where a run of bytes is stored in a bank, its cells hold the run. -/
theorem cell_of_putRun_inside {x : Nat} (hx : x < vs.length) : t.cell bank (a + x) = vs[x] := by
  rw [State.cell_eq, stored, Memory.get?_putRun_inside _ _ _ _ hx, Option.getD_some]

/-- Where a run of bytes is stored in a bank, the other cells stay. -/
theorem sameCellsOutside_of_putRun (hunlisted : t.unlisted bank = s.unlisted bank) :
    SameCellsOutside bank a vs.length s t := by
  intro x hx
  rw [State.cell_eq, State.cell_eq, stored, Memory.get?_putRun_outside _ _ _ _ hx, hunlisted]

end StoredRun

theorem blkRun_getElem (s : State) (a count : Nat) {x : Nat} (hx : x < (s.blkRun a count).length) :
    (s.blkRun a count)[x] = s.cell .blk (a + x) := by
  simp only [State.blkRun, List.getElem_map, List.getElem_range]

theorem step_commit {s : State} (hrun : Running s) (hpos : s.pos = .commit)
    (hfits : capacityHolds s.config.outCap ((s.voff + s.bcount) * s.vsize.toNat) = true) :
    step s = .next (committed s) := by
  have ⟨hbusy, hrst, _⟩ := hrun
  rw [step_running hrun, engineTurn, if_neg (by simp [hrst, hbusy]), hpos]
  exact if_pos hfits

/-- The block goes to OUT at its first vertex. -/
theorem committed_outRun (s : State) : (committed s).bank .output =
    (s.bank .output).putRun (s.voff * s.vsize.toNat) (s.blkRun 0 (s.bcount * s.vsize.toNat)) := rfl

/-- The last vertex of the block goes to LASTV. -/
theorem committed_lastvRun (s : State) : (committed s).bank .lastv =
    (s.bank .lastv).putRun 0 (s.blkRun (s.vsize.toNat * (s.bcount - 1)) s.vsize.toNat) := rfl

/-- Settles O29: two runs of BLK are stored, one in OUT and one in LASTV, each as long as what it copies. -/
theorem commitWritesBlockAndLastVertex : Obligations.CommitWritesBlockAndLastVertex := by
  intro s hrun hpos hfits
  have houtside := sameCellsOutside_of_putRun (committed_outRun s) rfl
  have hlastvOutside := sameCellsOutside_of_putRun (committed_lastvRun s) rfl
  rw [State.blkRun_length] at houtside hlastvOutside
  refine ⟨committed s, step_commit hrun hpos hfits, fun x hx => ?_, houtside, fun x hx => ?_, hlastvOutside, rfl, rfl,
    rfl, ⟨rfl, rfl, rfl, rfl, rfl, rfl, rfl, rfl⟩, ⟨rfl, rfl, rfl⟩, State.cell_congr rfl rfl rfl,
    State.cell_congr rfl rfl rfl, State.cell_congr rfl rfl rfl⟩
  · rw [cell_of_putRun_inside (committed_outRun s) (by rwa [State.blkRun_length]), blkRun_getElem, Nat.zero_add]
  · have hcell := cell_of_putRun_inside (committed_lastvRun s) (x := x) (by rwa [State.blkRun_length])
    rwa [Nat.zero_add, blkRun_getElem] at hcell

/-! ### The count of a block through START (R158, R170, R172) -/

/-- The budget of 8192 bytes holds 32 of the largest vertices. -/
theorem le_blockSize {v : Nat} (hpos : 0 < v) (hmax : v ≤ 256) : 32 ≤ blockSize v := by
  have hdiv : 8192 / 256 ≤ 8192 / v := Nat.div_le_div_left hmax hpos
  simp only [blockSize, roundDown, Config.blockMax, Config.blockBytes, Config.group]
  omega

theorem blockSize_le (v : Nat) : blockSize v ≤ 256 := Nat.min_le_left _ _

/-- The count of a next block is in the range the block decoder accepts. -/
theorem nextBlockCount_bounds {s : State} (hchecked : OperandsChecked s) (hbsize : s.bsize = blockSize s.vsize.toNat)
    (hvoff : s.voff < s.vcount.toNat) : 1 ≤ s.nextBlockCount ∧ s.nextBlockCount ≤ 256 := by
  obtain ⟨hmin, hmax, _, _⟩ := hchecked
  have hle := le_blockSize (by omega) hmax
  have hge := blockSize_le s.vsize.toNat
  rw [State.nextBlockCount]
  omega

/-! ### STATE, ERR and CAUSE over an element -/

theorem endGroup_sameStatus (a' : Nat) (s : State) : SameStatus s (endGroup a' s) := by
  obtain ⟨⟨_, hstatus, _⟩, _⟩ := endGroup_sameInGroup a' s
  exact hstatus

theorem nextCode_sameStatus (form : CodeForm) (s : State) : SameStatus s (nextCode form s) := by
  obtain ⟨⟨_, hstatus, _⟩, _⟩ := nextCode_sameInGroup form s
  exact hstatus

theorem deltaStep_sameStatus (d : Byte) (s : State) : SameStatus s (deltaStep d s) := by
  rcases deltaStep_cases d s with ⟨_, e⟩ | ⟨_, _, e⟩ | ⟨_, _, e⟩ <;> rw [e] <;> exact ⟨rfl, rfl, rfl⟩

/-- While BUSY no element changes STATE, ERR or CAUSE: START and CLEAR are ignored (R182), the rest touch none of
them. -/
theorem exec_sameStatus_of_busy {s t : State} (hbusy : s.engine = .busy) {i : Instr} (h : exec i s = .next t) :
    SameStatus s t := by
  cases i with
  | grpZ => obtain rfl := Host.Outcome.next.inj h; exact endGroup_sameStatus ..
  | c2Lit0 | c2Lit1 | c2Lit2 | c4Lit0 | c4Lit1 | c4Lit2 | c4Lit3 | c4Lit4 | c4Lit5 | c4Lit6 | c4Lit7 | c4Lit8 | c4Lit9
  | c4Lit10 | c4Lit11 | c4Lit12 | c4Lit13 | c4Lit14 | ovf v =>
    obtain rfl := Host.Outcome.next.inj h
    exact nextCode_sameStatus ..
  | raw v =>
    obtain rfl := Host.Outcome.next.inj h
    split
    · exact ⟨rfl, rfl, rfl⟩
    · exact endGroup_sameStatus ..
  | snap v => obtain rfl := Host.Outcome.next.inj h; split <;> exact ⟨rfl, rfl, rfl⟩
  | zzPos m | zzNeg m => obtain rfl := Host.Outcome.next.inj h; exact deltaStep_sameStatus ..
  | cmdStart r | cmdClear r =>
    obtain rfl := Host.Outcome.next.inj ((if_neg (by simp [hbusy])).symm.trans h)
    exact ⟨rfl, rfl, rfl⟩
  | _ => obtain rfl := Host.Outcome.next.inj h; exact ⟨rfl, rfl, rfl⟩

/-! ### Which causes a turn of the engine raises -/

theorem StatusConsistent.cause_eq_none_of_busy {s : State} (h : StatusConsistent s) (hbusy : s.engine = .busy) :
    s.cause = .none := by
  by_contra hcause
  have herror := h.engine_eq_error_iff.mpr hcause
  exact absurd (hbusy.symm.trans herror) (by decide)

section Causes

variable {s t : State}

theorem checkOperands_cause_ne (h : s.cause ≠ .blockCount) : (checkOperands s).cause ≠ .blockCount := by
  rcases checkOperands_cases s with ⟨_, e⟩ | ⟨_, _, e⟩ | ⟨_, _, _, e⟩ | ⟨_, e⟩ <;> simp [e, h]

/-- The head of the block loop raises nothing when the next count is in range. -/
theorem enterBlock_cause_ne (h : s.cause ≠ .blockCount)
    (hcount : s.voff < s.vcount.toNat → 1 ≤ s.nextBlockCount ∧ s.nextBlockCount ≤ 256) :
    (enterBlock s).cause ≠ .blockCount := by
  rcases enterBlock_cases s with ⟨_, e⟩ | ⟨hvoff, hout, _⟩ | ⟨_, _, e⟩
  · simp [e]
  · have := hcount hvoff
    omega
  · simp [e, h]

theorem runElement_cause_ne (h : s.cause ≠ .blockCount) (hbusy : s.engine = .busy) (hrun : runElement s = .next t) :
    t.cause ≠ .blockCount := by
  rcases runElement_cases hrun with ⟨_, _, i, _, _, _, hexec⟩ | ⟨_, _, rfl⟩ | ⟨_, rfl⟩
  · obtain ⟨_, _, hcause⟩ := exec_sameStatus_of_busy hbusy hexec
    rwa [hcause]
  · simp
  · exact h

/-- The one turn that checks a count is the head of the block loop, where the invariant keeps the count in range. -/
theorem Inv.engineTurn_cause_ne (hinv : Inv s) (hbusy : s.engine = .busy) (hturn : engineTurn s = .next t) :
    t.cause ≠ .blockCount := by
  obtain ⟨_, hplace⟩ := hinv.decodePlace hbusy
  have hcause : s.cause ≠ .blockCount := by
    rw [hinv.statusConsistent.cause_eq_none_of_busy hbusy]
    decide
  rcases engineTurn_cases hturn with ⟨_, rfl⟩ | ⟨_, _, ⟨_, rfl⟩ | ⟨hpos, rfl⟩ | ⟨_, rfl⟩ | ⟨_, hcommit⟩ | ⟨_, _, rfl⟩ |
    ⟨_, hrun⟩⟩
  · exact hcause
  · exact checkOperands_cause_ne hcause
  · simp only [DecodePlace, hpos] at hplace
    obtain ⟨hchecked, hbsize, _, _⟩ := hplace
    exact enterBlock_cause_ne hcause (nextBlockCount_bounds hchecked hbsize)
  · exact hcause
  · obtain ⟨_, rfl⟩ := commitBlock_next hcommit
    exact hcause
  · simp
  · exact runElement_cause_ne hcause hbusy hrun

end Causes

/-! ### The causes of the block decoder alone (R137, R158) -/

section Raised

variable {order : CodeOrder} {rd : Nat → Byte} {inlen : Nat} {cause : Cause} {a : Nat}

theorem decodeGroups_raised {hdr count g cur : Nat}
    (h : decodeGroups order rd inlen hdr count g cur = .raised cause a) : cause = .tailMargin := by
  induction count generalizing g cur with
  | zero => cases h
  | succ count ih =>
    rw [decodeGroups] at h
    split at h
    · cases h; rfl
    · dsimp only at h
      split at h
      · cases h
      · next hrest => cases h; exact ih hrest

theorem decodeColumns_raised {bcount : Nat} {lastv : List Byte} {cur : Nat}
    (h : decodeColumns order rd inlen bcount lastv cur = .raised cause a) : cause = .tailMargin := by
  induction lastv generalizing cur with
  | nil => cases h
  | cons p ps ih =>
    rw [decodeColumns] at h
    split at h
    · next hcolumn => cases h; exact decodeGroups_raised hcolumn
    · split at h
      · next hrest => cases h; exact ih hrest
      · cases h

end Raised

section BlockCount

variable (order : CodeOrder) (rd : Nat → Byte) (inlen : Nat) {bcount : Nat} (lastv : List Byte) (cur : Nat)

theorem decodeBlock_of_count_outside (h : bcount = 0 ∨ 257 ≤ bcount) :
    decodeBlock order rd inlen bcount lastv cur = .raised .blockCount cur :=
  if_pos (by simp only [Config.blockMax]; omega)

/-- With a count in range, what the block decoder raises comes from a column. -/
theorem decodeBlock_raised_of_count_inside (hmin : 1 ≤ bcount) (hmax : bcount ≤ 256) {cause : Cause} {a : Nat}
    (h : decodeBlock order rd inlen bcount lastv cur = .raised cause a) : cause = .tailMargin := by
  rw [decodeBlock, if_neg (by simp only [Config.blockMax]; omega)] at h
  split at h
  · next hcolumns => cases h; exact decodeColumns_raised hcolumns
  · cases h

end BlockCount

/-- Settles O31: the causes of a turn and of a block with a count in range are others, and the check is the block
decoder's first. -/
theorem blockCountUnreachable : Obligations.BlockCountUnreachable := by
  refine ⟨fun s t => Inv.engineTurn_cause_ne, fun order rd inlen bcount cur lastv hcount => ?_,
    fun order rd inlen bcount cur lastv a hmin hmax hraised => ?_⟩
  · exact decodeBlock_of_count_outside order rd inlen lastv cur hcount
  · exact absurd (decodeBlock_raised_of_count_inside order rd inlen lastv cur hmin hmax hraised) (by decide)

end Sys2Proof.Machine
end

/-! The stream decoder (43_stream_decoder.md). The block size (R170, R171); the operand checks and the tag in the engine
(R165 to R167); the same checks in DecodeStream, and its decode of no vertex (R175); and CLEAR (R181). -/

namespace Sys2Proof.Machine

/-! ### The block size (R170, R171) -/

theorem blockSize_eq (v : Nat) : blockSize v = min 256 (16 * ((8192 / v) / 16)) := rfl

/-- `roundDown(8192 div v, 16)` reaches 256 as long as 256 vertices fit the 8192 bytes of a block. -/
theorem blockSize_eq_256_iff {v : Nat} (hpos : 0 < v) : blockSize v = 256 ↔ v ≤ 32 := by
  have hfits : 256 ≤ 8192 / v ↔ 256 * v ≤ 8192 := Nat.le_div_iff_mul_le hpos
  rw [blockSize_eq]
  omega

/-- Below the limit of 256 the block size is a multiple of 16 already, and the limit is one too. -/
theorem blockSize_mod_16 (v : Nat) : blockSize v % 16 = 0 := by
  rw [blockSize_eq]
  omega

theorem blockSize_le_div (v : Nat) : blockSize v ≤ 8192 / v :=
  (Nat.min_le_right _ _).trans (Nat.mul_div_le _ _)

/-- A block fits BLK. -/
theorem blockSize_mul_le (v : Nat) : blockSize v * v ≤ 8192 :=
  (Nat.mul_le_mul_right v (blockSize_le_div v)).trans (Nat.div_mul_le_self 8192 v)

/-- Settles O32: of a legal VSIZE only that it is in 1..256 is needed. -/
theorem blockSizeProperties : Obligations.BlockSizeProperties := by
  intro v hmin hmax _
  have hpos : 0 < v := by omega
  exact ⟨blockSize_eq v, blockSize_mod_16 v, le_blockSize hpos hmax, blockSize_le v, blockSize_mul_le v,
    blockSize_eq_256_iff hpos, rfl⟩

/-! ### The operand checks of the engine (R165, R166) -/

theorem step_operands {s : State} (hrun : Running s) (hpos : s.pos = .operands) : step s = .next (checkOperands s) := by
  have ⟨hbusy, hrst, _⟩ := hrun
  rw [step_running hrun, engineTurn, if_neg (by simp [hrst, hbusy]), hpos]

/-- Settles O33: the turn is `checkOperands`, and the conditions of its four outcomes exclude each other. -/
theorem operandChecks : Obligations.OperandChecks := by
  intro s hrun hpos
  rw [step_operands hrun hpos]
  rcases checkOperands_cases s with ⟨hrange, e⟩ | ⟨hrange, halign, e⟩ | ⟨hrange, halign, hshort, e⟩ |
    ⟨⟨hmin, hmax, halign, hlen⟩, e⟩ <;> rw [e]
  case inl => exact ⟨fun _ => rfl, by omega, by omega, by omega⟩
  case inr.inl => exact ⟨by omega, fun _ _ _ => rfl, by omega, by omega⟩
  case inr.inr.inl => exact ⟨by omega, by omega, fun _ _ _ _ => rfl, by omega⟩
  case inr.inr.inr => exact ⟨by omega, by omega, by omega, fun _ _ _ _ => rfl⟩

/-! ### The tag (R98, R167) -/

/-- A byte at the tag position is the tag or is refused. -/
theorem decode_tag (v : Byte) :
    decode .tag (v.setWidth 32) = if v = 0xA0#8 then .ok .tag else .error .badTag := by
  rw [decode, BitVec.setWidth_setWidth_of_le v (by decide), BitVec.setWidth_eq]

theorem runBits_tag (v : Byte) (s : State) :
    runBits .tag (v.setWidth 32) s = if v = 0xA0#8 then exec .tag s else .next (takeException .badTag s) := by
  rw [runBits, decode_tag]
  by_cases htag : v = 0xA0#8
  · rw [if_pos htag, if_pos htag]
  · rw [if_neg htag, if_neg htag]

/-- The element at the tag's place is the byte `IN[0]`. -/
theorem step_tag {s : State} (hrun : Running s) (hpos : s.pos = .tag) (hlen : 1 ≤ s.inlen.toNat)
    (hcap : s.capacitiesHold = true) :
    step s = if s.cell .input 0 = 0xA0#8 then exec .tag s else .next (takeException .badTag s) := by
  have ⟨hbusy, hrst, _⟩ := hrun
  have hpresented : s.presented = .element .tag ((s.cell .input 0).setWidth 32) := by
    rw [State.presented, hpos]
    exact presentIn_of_lt hcap .tag hlen
  rw [step_running hrun, engineTurn, if_neg (by simp [hrst, hbusy]), hpos, ← runBits_tag]
  simp only [runElement, hpresented]

/-- Settles O34: the step at the tag by the byte `IN[0]`; the cursor there by the invariant. -/
theorem tagCheck : Obligations.TagCheck := by
  refine ⟨fun _ => rfl, fun s hrun hpos hlen hcap => ?_, fun s hinv hrun hpos => ?_⟩
  · rw [step_tag hrun hpos hlen hcap]
    exact ⟨fun htag => if_pos htag, fun htag => if_neg htag, rfl⟩
  · obtain ⟨hbusy, _⟩ := hrun
    obtain ⟨_, hplace⟩ := hinv.decodePlace hbusy
    simp only [DecodePlace, hpos] at hplace
    obtain ⟨_, hcur⟩ := hplace
    exact hcur

/-! ### The checks of DecodeStream (R165 to R167, R169) -/

section DecodeStream

variable (order : CodeOrder) (vcount : Nat) {vsize inlen : Nat} {rd : Nat → Byte}

theorem decodeStream_of_vsize_outside (hrange : vsize = 0 ∨ 257 ≤ vsize) :
    decodeStream order vcount vsize inlen rd = .raised .vsizeRange 0 :=
  if_pos (by simp only [Config.vsizeMax]; omega)

/-- With VSIZE in range, what is left are the checks after the range test. -/
theorem decodeStream_of_vsize_inside (hmin : 1 ≤ vsize) (hmax : vsize ≤ 256) :
    decodeStream order vcount vsize inlen rd =
      if vsize % 4 ≠ 0 then .raised .vsizeAlign 0
      else if inlen < 1 + vsize then .raised .shortBuffer 0
      else if rd 0 ≠ 0xA0#8 then .raised .badTag 0
      else decodeBlocks order rd inlen (blockSize vsize) vcount vcount
        ((List.range vsize).map fun k => rd (inlen - vsize + k)) 1 :=
  if_neg (by simp only [Config.vsizeMax]; omega)

end DecodeStream

/-- With no vertex left the block loop runs zero times. -/
theorem decodeBlocks_zero (order : CodeOrder) (rd : Nat → Byte) (inlen bsize : Nat) (lastv : List Byte) (cur : Nat) :
    decodeBlocks order rd inlen bsize 0 0 lastv cur = .value ([], cur) := rfl

/-- Settles O38: the checks do not look at VCOUNT, and the block loop they lead to runs zero times. -/
theorem emptyDecode : Obligations.EmptyDecode := by
  intro order vsize inlen rd
  refine ⟨decodeStream_of_vsize_outside order 0, fun hmin hmax halign => ?_, fun hmin hmax halign hshort => ?_,
    fun hmin hmax halign hlen htag => ?_, fun hmin hmax halign hlen htag => ?_⟩ <;>
    rw [decodeStream_of_vsize_inside order 0 hmin hmax]
  · rw [if_pos halign]
  · rw [if_neg (not_not.mpr halign), if_pos hshort]
  · rw [if_neg (not_not.mpr halign), if_neg hlen.not_gt, if_pos htag]
  · rw [if_neg (not_not.mpr halign), if_neg hlen.not_gt, if_neg (not_not.mpr htag), decodeBlocks_zero]

/-! ### CLEAR (R181, R182) -/

section Clear

variable {s : State} (r : BitVec 30)

theorem exec_cmdClear_of_over (h : s.engine = .done ∨ s.engine = .error) :
    exec (.cmdClear r) s = .next (returnToIdle s) := if_pos h

theorem exec_cmdClear_of_not_over (h : s.engine = .idle ∨ s.engine = .busy) :
    exec (.cmdClear r) s = .next s := if_neg (by rcases h with h | h <;> simp [h])

end Clear

theorem returnToIdle_sameCells (s : State) (bank : Bank) : SameCells bank s (returnToIdle s) :=
  State.cell_congr (by cases bank <;> rfl) rfl rfl

/-- Settles O43: an accepted CLEAR is `returnToIdle`, which sets STATE, ERR, CAUSE and the cursor only. -/
theorem clearCommand : Obligations.ClearCommand := by
  refine fun s r => ⟨fun hover => ?_, exec_cmdClear_of_not_over r⟩
  exact ⟨returnToIdle s, exec_cmdClear_of_over r hover, rfl, rfl, rfl, rfl, rfl, rfl,
    ⟨rfl, rfl, rfl, rfl, rfl, rfl, rfl, rfl⟩, returnToIdle_sameCells s, ⟨rfl, rfl, rfl, rfl, rfl⟩, rfl,
    ⟨rfl, rfl, rfl, rfl, rfl⟩, rfl, rfl⟩

end Sys2Proof.Machine

/-! The encoding (30_encoding.md). The fields of a byte and of a CTRL word, read back from their concatenation and put
together again (R84, R88, R89, R94, R29); the round trips of `decode` and `encode` (R97), and the one refusal (R98). -/

namespace Sys2Proof.Machine

/-! ### Fields -/

theorem setWidth_ushiftRight {w : Nat} (x : BitVec w) (start len : Nat) :
    (x >>> start).setWidth len = x.extractLsb' start len := by
  apply BitVec.eq_of_getLsbD_eq
  intro i hi
  simp [hi]

/-- The bits of a narrower vector are the same in the 32-bit word it is carried in. -/
theorem extractLsb'_carried {w start len : Nat} (x : BitVec w) (h : start + len ≤ 32) :
    (x.setWidth 32).extractLsb' start len = x.extractLsb' start len := BitVec.extractLsb'_setWidth_of_le h

theorem setWidth_carried {w : Nat} (x : BitVec w) (h : w ≤ 32) : (x.setWidth 32).setWidth w = x := by
  rw [BitVec.setWidth_setWidth_of_le x h, BitVec.setWidth_eq]

/-- The four 2-bit fields of a byte, highest first (R84, R88). -/
theorem fields_of_append (a b c d : BitVec 2) :
    (a ++ b ++ c ++ d : Byte).extractLsb' 6 2 = a ∧ (a ++ b ++ c ++ d : Byte).extractLsb' 4 2 = b ∧
    (a ++ b ++ c ++ d : Byte).extractLsb' 2 2 = c ∧ (a ++ b ++ c ++ d : Byte).extractLsb' 0 2 = d := by
  refine ⟨?_, ?_, extractLsb'_append_append (a ++ b) c d, BitVec.extractLsb'_append_eq_right⟩
  · rw [extractLsb'_append_append_of_le (a ++ b) c d (by decide)]
    exact BitVec.extractLsb'_append_eq_left
  · rw [extractLsb'_append_append_of_le (a ++ b) c d (by decide)]
    exact BitVec.extractLsb'_append_eq_right

/-- The low byte of a word from its four fields. -/
theorem append_of_fields (w : Word) :
    (w.extractLsb' 6 2 ++ w.extractLsb' 4 2 ++ w.extractLsb' 2 2 ++ w.extractLsb' 0 2 : Byte) = w.setWidth 8 := by
  rw [BitVec.extractLsb'_append_extractLsb'_eq_extractLsb' (start₂ := 6) (start₁ := 4) (len₁ := 2) rfl,
    BitVec.extractLsb'_append_extractLsb'_eq_extractLsb' (start₂ := 4) (start₁ := 2) (len₁ := 2) rfl,
    BitVec.extractLsb'_append_extractLsb'_eq_extractLsb' (start₂ := 2) (start₁ := 0) (len₁ := 2) rfl,
    BitVec.setWidth_eq_extractLsb' (by decide)]

/-- The low byte of a word from its two nibbles (R89). -/
theorem append_of_nibbles (w : Word) : (w.extractLsb' 4 4 ++ w.extractLsb' 0 4 : Byte) = w.setWidth 8 := by
  rw [BitVec.extractLsb'_append_extractLsb'_eq_extractLsb' (start₂ := 4) (start₁ := 0) (len₁ := 4) rfl,
    BitVec.setWidth_eq_extractLsb' (by decide)]

/-! ### The decoder on what the encoder gives -/

theorem decode_encode_hdr (a b c d : BitVec 2) : decode .header (encode (.hdr a b c d)) = .ok (.hdr a b c d) := by
  obtain ⟨hd, hc, hb, ha⟩ := fields_of_append d c b a
  simp (disch := decide) only [decode, encode, extractLsb'_carried, ha, hb, hc, hd]

theorem decode_encode_pack2 (a b c d : BitVec 2) : decode .pack2 (encode (.pack2 a b c d)) = .ok (.pack2 a b c d) := by
  obtain ⟨ha, hb, hc, hd⟩ := fields_of_append a b c d
  simp (disch := decide) only [decode, encode, extractLsb'_carried, ha, hb, hc, hd]

theorem decode_encode_pack4 (a b : BitVec 4) : decode .pack4 (encode (.pack4 a b)) = .ok (.pack4 a b) := by
  have ha : (a ++ b).extractLsb' 4 4 = a := BitVec.extractLsb'_append_eq_left
  have hb : (a ++ b).extractLsb' 0 4 = b := BitVec.extractLsb'_append_eq_right
  simp (disch := decide) only [decode, encode, extractLsb'_carried, ha, hb]

/-- A residual by its bit 0 (R94). -/
theorem decodeResidual_append (m : BitVec 7) (b : BitVec 1) :
    decodeResidual (m ++ b) = if b = 0#1 then .zzPos m else .zzNeg m := by
  have hm : (m ++ b : Byte).extractLsb' 1 7 = m := BitVec.extractLsb'_append_eq_left
  have hb : (m ++ b : Byte).extractLsb' 0 1 = b := BitVec.extractLsb'_append_eq_right
  rw [decodeResidual, hm, hb]

theorem decode_encode_zz (m : BitVec 7) (b : BitVec 1) :
    decode .residual ((m ++ b : Byte).setWidth 32) = .ok (if b = 0#1 then .zzPos m else .zzNeg m) := by
  rw [decode, setWidth_carried _ (by decide), decodeResidual_append]

/-- The command of a CTRL word by its bits 1:0 (R29). -/
def commandOf (c : BitVec 2) (r : BitVec 30) : Instr :=
  match c.toNat with
  | 0 => .cmdNone r
  | 1 => .cmdStart r
  | 2 => .cmdClear r
  | _ => .cmdRsvd r

theorem decodeCtrl_eq (w : Word) : decodeCtrl w = commandOf (w.extractLsb' 0 2) (w.extractLsb' 2 30) := rfl

theorem decodeCtrl_append (r : BitVec 30) (c : BitVec 2) : decodeCtrl (r ++ c) = commandOf c r := by
  have hr : (r ++ c : Word).extractLsb' 2 30 = r := BitVec.extractLsb'_append_eq_left
  have hc : (r ++ c : Word).extractLsb' 0 2 = c := BitVec.extractLsb'_append_eq_right
  rw [decodeCtrl_eq, hr, hc]

theorem decode_encode_ctrl (r : BitVec 30) (c : BitVec 2) : decode .ctrl (r ++ c) = .ok (commandOf c r) :=
  congrArg Except.ok (decodeCtrl_append r c)

/-- An element decodes to itself where it stands: the elements without operands by their bits, the others field by
field. -/
theorem decode_encode (i : Instr) : decode i.slot (encode i) = .ok i := by
  cases i with
  | hdr a b c d => exact decode_encode_hdr a b c d
  | pack2 a b c d => exact decode_encode_pack2 a b c d
  | pack4 a b => exact decode_encode_pack4 a b
  | ovf v => exact congrArg (Except.ok ∘ Instr.ovf) (setWidth_carried v (by decide))
  | raw v => exact congrArg (Except.ok ∘ Instr.raw) (setWidth_carried v (by decide))
  | snap v => exact congrArg (Except.ok ∘ Instr.snap) (setWidth_carried v (by decide))
  | zzPos m => exact decode_encode_zz m 0#1
  | zzNeg m => exact decode_encode_zz m 1#1
  | cmdNone r => exact decode_encode_ctrl r 0#2
  | cmdStart r => exact decode_encode_ctrl r 1#2
  | cmdClear r => exact decode_encode_ctrl r 2#2
  | cmdRsvd r => exact decode_encode_ctrl r 3#2
  | _ => rfl

theorem wellFormedAt_iff (i : Instr) (p : Slot) : i.wellFormedAt p = true ↔ i.slot = p := decide_eq_true_iff

/-- Settles O1: a well-formed element stands at its own position. -/
theorem decodeOfEncode : Obligations.DecodeOfEncode := by
  intro i p hwf
  obtain rfl := (wellFormedAt_iff i p).mp hwf
  exact decode_encode i

/-! ### The encoder on what the decoder gives -/

theorem encode_decodeSelector (v : BitVec 2) : encode (decodeSelector v) = v.setWidth 32 := by
  revert v; decide

theorem encode_decodeCode2 (v : BitVec 2) : encode (decodeCode2 v) = v.setWidth 32 := by
  revert v; decide

theorem encode_decodeCode4 (v : BitVec 4) : encode (decodeCode4 v) = v.setWidth 32 := by
  revert v; decide

theorem encode_decodeResidual (v : Byte) : encode (decodeResidual v) = v.setWidth 32 := by
  obtain ⟨m, rfl | rfl⟩ := residual_cases v <;> rw [decodeResidual_append] <;> rfl

theorem encode_commandOf (c : BitVec 2) (r : BitVec 30) : encode (commandOf c r) = r ++ c := by
  have hc : c = 0#2 ∨ c = 1#2 ∨ c = 2#2 ∨ c = 3#2 := by revert c; decide
  rcases hc with rfl | rfl | rfl | rfl <;> rfl

theorem encode_decodeCtrl (w : Word) : encode (decodeCtrl w) = w := by
  rw [decodeCtrl_eq, encode_commandOf]
  exact BitVec.extractLsb'_append_extractLsb' (w := 30) (len := 2)

/-- The low bits of a word, as the word that carries them. -/
theorem setWidth_setWidth_eq_ofNat (w : Word) (n : Nat) :
    (w.setWidth n).setWidth 32 = BitVec.ofNat 32 (w.toNat % 2 ^ n) := by
  apply BitVec.eq_of_toNat_eq
  rw [BitVec.toNat_setWidth, BitVec.toNat_setWidth, BitVec.toNat_ofNat]

/-- What is decoded at a position encodes to the position's bits, right-aligned. -/
theorem encode_of_decode {p : Slot} {w : Word} {i : Instr} (h : decode p w = .ok i) :
    encode i = (w.setWidth p.width).setWidth 32 := by
  cases p <;> simp only [decode, Except.ok.injEq] at h
  case tag =>
    split at h
    · next htag => cases h; simp only [Slot.width, htag]; rfl
    · cases h
  all_goals subst h; simp only [Slot.width]
  case header => rw [← append_of_fields w]; rfl
  case pack2 => rw [← append_of_fields w]; rfl
  case pack4 => rw [← append_of_nibbles w]; rfl
  case selector => exact encode_decodeSelector _
  case code2 => exact encode_decodeCode2 _
  case code4 => exact encode_decodeCode4 _
  case residual => exact encode_decodeResidual _
  case ctrl => rw [encode_decodeCtrl, BitVec.setWidth_eq, BitVec.setWidth_eq]
  all_goals rfl

/-- Settles O2: the position by `decode_slot`, the bits by `encode_of_decode`. -/
theorem encodeOfDecode : Obligations.EncodeOfDecode := by
  intro p w i h
  refine ⟨(wellFormedAt_iff i p).mpr (decode_slot h), ?_⟩
  rw [encode_of_decode h, setWidth_setWidth_eq_ofNat]

/-! ### The one refusal (R98, R99) -/

theorem decode_tag_word (w : Word) :
    decode .tag w = if w.setWidth 8 = 0xA0#8 then .ok .tag else .error .badTag := rfl

/-- Settles O3: every position but the tag's accepts every word. -/
theorem decodeRefusesOnlyWrongTag : Obligations.DecodeRefusesOnlyWrongTag := by
  intro p w e
  cases e
  constructor
  · intro h
    obtain rfl := decode_error h
    refine ⟨rfl, rfl, fun htag => ?_⟩
    rw [decode_tag_word, if_pos htag] at h
    cases h
  · rintro ⟨_, rfl, htag⟩
    rw [decode_tag_word, if_neg htag]

/-- Settles O4: each word decodes by its own bits. -/
theorem sampleWordsDecode : Obligations.SampleWordsDecode := by
  unfold Obligations.SampleWordsDecode
  decide

end Sys2Proof.Machine


/-! The elements, one by one (40_group_decoder.md, 41_byte_plane_decoder.md, 42_block_decoder.md, 43_stream_decoder.md): what
each stores, where the engine goes next, and what it leaves alone. -/

namespace Sys2Proof.Machine

/-! ### What stays the same composes -/

section Same

variable {s t u : State}

theorem SameCells.trans {bank : Bank} (h : SameCells bank s t) (h' : SameCells bank t u) : SameCells bank s u :=
  fun a => (h' a).trans (h a)

theorem SameOperands.trans (h : SameOperands s t) (h' : SameOperands t u) : SameOperands s u := by
  obtain ⟨h1, h2, h3, h4, h5, h6, h7, h8⟩ := h
  obtain ⟨g1, g2, g3, g4, g5, g6, g7, g8⟩ := h'
  exact ⟨g1.trans h1, g2.trans h2, g3.trans h3, g4.trans h4, g5.trans h5, g6.trans h6, g7.trans h7, g8.trans h8⟩

theorem SameStatus.trans (h : SameStatus s t) (h' : SameStatus t u) : SameStatus s u := by
  obtain ⟨h1, h2, h3⟩ := h
  obtain ⟨g1, g2, g3⟩ := h'
  exact ⟨g1.trans h1, g2.trans h2, g3.trans h3⟩

theorem SameBlock.trans (h : SameBlock s t) (h' : SameBlock t u) : SameBlock s u := by
  obtain ⟨h1, h2, h3, h4, h5⟩ := h
  obtain ⟨g1, g2, g3, g4, g5⟩ := h'
  exact ⟨g1.trans h1, g2.trans h2, g3.trans h3, g4.trans h4, g5.trans h5⟩

theorem SameOutside.trans (h : SameOutside s t) (h' : SameOutside t u) : SameOutside s u := by
  obtain ⟨ho, hs, hi, hout⟩ := h
  obtain ⟨ho', hs', hi', hout'⟩ := h'
  exact ⟨ho.trans ho', hs.trans hs', hi.trans hi', hout.trans hout'⟩

theorem SameInGroup.trans (h : SameInGroup s t) (h' : SameInGroup t u) : SameInGroup s u := by
  obtain ⟨ho, hb, hk, hl, hblk⟩ := h
  obtain ⟨ho', hb', hk', hl', hblk'⟩ := h'
  exact ⟨ho.trans ho', hb.trans hb', hk'.trans hk, hl.trans hl', hblk.trans hblk'⟩

theorem SameOutside.refl (s : State) : SameOutside s s :=
  ⟨⟨rfl, rfl, rfl, rfl, rfl, rfl, rfl, rfl⟩, ⟨rfl, rfl, rfl⟩, SameCells.refl _ s, SameCells.refl _ s⟩

theorem SameInGroup.sameOutside (h : SameInGroup s t) : SameOutside s t := by
  obtain ⟨ho, _⟩ := h
  exact ho

end Same

/-! ### Groups begin (R112 to R114) -/

theorem beginPacked_sameInGroup (form : CodeForm) (s : State) : SameInGroup s (beginPacked form s) := by
  apply sameInGroup_of_eqs <;> simp

/-- Settles O9: `beginPacked` sets the form, the residual, the overflow cursor and the place. -/
theorem packedGroupBegins : Obligations.PackedGroupBegins := by
  intro s form
  refine ⟨beginPacked form s, by cases form <;> rfl, rfl, rfl, rfl, by cases form <;> rfl, rfl, rfl, rfl, rfl, rfl,
    beginPacked_sameInGroup form s, State.cell_congr rfl rfl rfl⟩

/-- Settles O10: the residual and the place are all that changes. -/
theorem rawGroupBegins : Obligations.RawGroupBegins := by
  intro s
  refine ⟨_, rfl, rfl, rfl, rfl, rfl, rfl, rfl, rfl, rfl, rfl, ?_, State.cell_congr rfl rfl rfl⟩
  apply sameInGroup_of_eqs <;> simp

/-! ### Packed bytes (R88, R89) -/

/-- The packed byte `v` is latched; its first code is next (R112, R113). -/
def latchPacked (v : Byte) (s : State) : State := { s with packed := v, pos := .code }

theorem latchPacked_sameInGroup (v : Byte) (s : State) : SameInGroup s (latchPacked v s) := by
  apply sameInGroup_of_eqs <;> simp [latchPacked]

theorem exec_pack2 (a b c d : BitVec 2) (s : State) :
    exec (.pack2 a b c d) s = .next (latchPacked (packedByte2 a b c d) { s with form := .b2 }) := rfl

theorem exec_pack4 (a b : BitVec 4) (s : State) :
    exec (.pack4 a b) s = .next (latchPacked (packedByte4 a b) { s with form := .b4 }) := rfl

/-- The two orders read the fields of a packed byte from the top and from the bottom (R88). -/
theorem code2_eq_field (packed : Byte) (i : Nat) :
    code2 .msbFirst packed i = packed.extractLsb' (6 - 2 * i) 2 ∧ code2 .lsbFirst packed i = packed.extractLsb' (2 * i) 2 :=
  ⟨setWidth_ushiftRight _ _ _, setWidth_ushiftRight _ _ _⟩

theorem code4_eq_field (packed : Byte) (i : Nat) :
    code4 .msbFirst packed i = packed.extractLsb' (4 - 4 * i) 4 ∧ code4 .lsbFirst packed i = packed.extractLsb' (4 * i) 4 :=
  ⟨setWidth_ushiftRight _ _ _, setWidth_ushiftRight _ _ _⟩

theorem code2_msbFirst_packedByte2 (a b c d : BitVec 2) :
    code2 .msbFirst (packedByte2 a b c d) 0 = a ∧ code2 .msbFirst (packedByte2 a b c d) 1 = b ∧
    code2 .msbFirst (packedByte2 a b c d) 2 = c ∧ code2 .msbFirst (packedByte2 a b c d) 3 = d := by
  simp only [code2_eq_field]
  exact fields_of_append a b c d

theorem code2_lsbFirst_packedByte2 (a b c d : BitVec 2) :
    code2 .lsbFirst (packedByte2 a b c d) 0 = d ∧ code2 .lsbFirst (packedByte2 a b c d) 1 = c ∧
    code2 .lsbFirst (packedByte2 a b c d) 2 = b ∧ code2 .lsbFirst (packedByte2 a b c d) 3 = a := by
  obtain ⟨ha, hb, hc, hd⟩ := fields_of_append a b c d
  simp only [code2_eq_field]
  exact ⟨hd, hc, hb, ha⟩

theorem code4_msbFirst_packedByte4 (a b : BitVec 4) :
    code4 .msbFirst (packedByte4 a b) 0 = a ∧ code4 .msbFirst (packedByte4 a b) 1 = b := by
  simp only [code4_eq_field]
  exact ⟨BitVec.extractLsb'_append_eq_left, BitVec.extractLsb'_append_eq_right⟩

theorem code4_lsbFirst_packedByte4 (a b : BitVec 4) :
    code4 .lsbFirst (packedByte4 a b) 0 = b ∧ code4 .lsbFirst (packedByte4 a b) 1 = a := by
  simp only [code4_eq_field]
  exact ⟨BitVec.extractLsb'_append_eq_right, BitVec.extractLsb'_append_eq_left⟩

/-- Settles O11: the latched byte is `packedByte2` or `packedByte4`, read by the formulas of either order. -/
theorem packedBytesHoldTheirCodes : Obligations.PackedBytesHoldTheirCodes := by
  constructor
  · intro s a b c d
    obtain ⟨m0, m1, m2, m3⟩ := code2_msbFirst_packedByte2 a b c d
    obtain ⟨l0, l1, l2, l3⟩ := code2_lsbFirst_packedByte2 a b c d
    exact ⟨_, exec_pack2 a b c d s, rfl, rfl, m0, m1, m2, m3, l0, l1, l2, l3, rfl, rfl, rfl, rfl, rfl, rfl,
      latchPacked_sameInGroup _ { s with form := .b2 }, State.cell_congr rfl rfl rfl⟩
  · intro s a b
    obtain ⟨m0, m1⟩ := code4_msbFirst_packedByte4 a b
    obtain ⟨l0, l1⟩ := code4_lsbFirst_packedByte4 a b
    exact ⟨_, exec_pack4 a b s, rfl, rfl, m0, m1, l0, l1, rfl, rfl, rfl, rfl, rfl, rfl,
      latchPacked_sameInGroup _ { s with form := .b4 }, State.cell_congr rfl rfl rfl⟩

/-! ### Residuals of a group (R93, R114 to R116) -/

theorem storesResidual_storeResidual (v : Byte) (s : State) : StoresResidual v s (storeResidual v s) :=
  ⟨writeCol_cell_self s _ v, fun x hx => writeCol_cell_other s (a := 16 * s.g + s.j) v .col fun _ => by omega⟩

/-- What follows a store and leaves COL alone keeps the stored residual. -/
theorem StoresResidual.of_sameCells {v : Byte} {s t u : State} (h : StoresResidual v s t) (hcol : SameCells .col t u) :
    StoresResidual v s u := by
  obtain ⟨hcell, hother⟩ := h
  exact ⟨(hcol _).trans hcell, fun x hx => (hcol x).trans (hother x hx)⟩

theorem nextCode_sameCells_col (form : CodeForm) (s : State) : SameCells .col s (nextCode form s) := by
  rcases nextCode_cases form s with ⟨_, e⟩ | ⟨_, e⟩ <;> rw [e]
  · exact State.cell_congr rfl rfl rfl
  · exact endGroup_sameCells_col _ s

theorem nextCode_packedByte (form : CodeForm) (s : State) :
    (nextCode form s).form = s.form ∧ (nextCode form s).packed = s.packed := by
  rcases nextCode_cases form s with ⟨_, e⟩ | ⟨_, e⟩ <;> rw [e]
  · exact ⟨rfl, rfl⟩
  · obtain ⟨hform, hpacked, _⟩ := endGroup_packedLoop s.ov s
    exact ⟨hform, hpacked⟩

/-- A residual of a packed group is stored, with the overflow cursor then at `ov`. -/
def packedResidual (form : CodeForm) (v : Byte) (ov : Nat) (s : State) : State :=
  nextCode form { storeResidual v s with ov := ov }

theorem literalCode_eq (form : CodeForm) (v : Byte) (s : State) :
    literalCode form v s = packedResidual form v s.ov s := rfl

theorem exec_ovf (v : Byte) (s : State) : exec (.ovf v) s = .next (packedResidual s.form v (s.ov + 1) s) := rfl

theorem packedResidual_spec (form : CodeForm) (v : Byte) (ov : Nat) (s : State) :
    let t := packedResidual form v ov s
    StoresResidual v s t ∧ AfterResidual form ov s t ∧ SameInGroup s t ∧ t.form = s.form ∧ t.packed = s.packed :=
  ⟨(storesResidual_storeResidual v s).of_sameCells (nextCode_sameCells_col form { storeResidual v s with ov := ov }),
    nextCode_afterResidual form { storeResidual v s with ov := ov },
    nextCode_sameInGroup form { storeResidual v s with ov := ov },
    nextCode_packedByte form { storeResidual v s with ov := ov }⟩

/-- Each of the eighteen literal codes stores its own value (R115). -/
theorem exec_literal (s : State) : ∀ c ∈ literalCodes, exec c.1 s = .next (literalCode c.2.1 c.2.2 s) := by
  simp only [literalCodes, List.forall_mem_cons]
  exact ⟨rfl, rfl, rfl, rfl, rfl, rfl, rfl, rfl, rfl, rfl, rfl, rfl, rfl, rfl, rfl, rfl, rfl, rfl, List.forall_mem_nil _⟩

/-- Settles O12: a literal code is `packedResidual` with the overflow cursor where it was. -/
theorem literalCodesStoreTheirValue : Obligations.LiteralCodesStoreTheirValue :=
  fun s c hc => ⟨_, exec_literal s c hc, packedResidual_spec c.2.1 c.2.2 s.ov s⟩

theorem escapeCode_sameInGroup (form : CodeForm) (s : State) : SameInGroup s (escapeCode form s) := by
  apply sameInGroup_of_eqs <;> simp

/-- Settles O13: `escapeCode` sets the form and the place. -/
theorem escapeCodesWaitForOverflow : Obligations.EscapeCodesWaitForOverflow := by
  intro s form
  exact ⟨escapeCode form s, by cases form <;> rfl, rfl, rfl, rfl, rfl, rfl, rfl, rfl, rfl, rfl,
    escapeCode_sameInGroup form s, State.cell_congr rfl rfl rfl⟩

/-- Settles O14: an overflow byte is `packedResidual` with the overflow cursor one on. -/
theorem overflowByteIsTheResidual : Obligations.OverflowByteIsTheResidual :=
  fun s v => ⟨_, exec_ovf v s, packedResidual_spec s.form v (s.ov + 1) s⟩

/-- A raw byte is stored; then the next one, or the end of the group 16 bytes on (R114). -/
def rawResidual (v : Byte) (s : State) : State :=
  if s.j + 1 < 16 then { storeResidual v s with j := s.j + 1 } else endGroup (s.cur + 16) (storeResidual v s)

theorem exec_raw (v : Byte) (s : State) : exec (.raw v) s = .next (rawResidual v s) := rfl

theorem rawResidual_cases (v : Byte) (s : State) :
    (s.j + 1 < 16 ∧ rawResidual v s = { storeResidual v s with j := s.j + 1 }) ∨
    (¬ s.j + 1 < 16 ∧ rawResidual v s = endGroup (s.cur + 16) (storeResidual v s)) := by
  unfold rawResidual
  by_cases h : s.j + 1 < 16
  · exact .inl ⟨h, if_pos h⟩
  · exact .inr ⟨h, if_neg h⟩

theorem rawResidual_sameInGroup (v : Byte) (s : State) : SameInGroup s (rawResidual v s) := by
  rcases rawResidual_cases v s with ⟨_, e⟩ | ⟨_, e⟩ <;> rw [e]
  · apply sameInGroup_of_eqs <;> simp
  · exact endGroup_sameInGroup _ (storeResidual v s)

/-- Settles O15: the byte is stored, and after the sixteenth the group ends. -/
theorem rawByteIsTheResidual : Obligations.RawByteIsTheResidual := by
  intro s v
  refine ⟨_, exec_raw v s, ?_⟩
  have hsame := rawResidual_sameInGroup v s
  rcases rawResidual_cases v s with ⟨hj, e⟩ | ⟨hj, e⟩ <;> rw [e] at hsame ⊢
  · exact ⟨storesResidual_storeResidual v s, fun _ => ⟨rfl, rfl, rfl, rfl, rfl, rfl⟩, fun hlast => absurd hj hlast,
      hsame, rfl, rfl, rfl⟩
  · exact ⟨(storesResidual_storeResidual v s).of_sameCells (endGroup_sameCells_col _ _), fun hmore => absurd hmore hj,
      fun _ => endGroup_afterGroup _ (storeResidual v s), hsame, endGroup_packedLoop _ (storeResidual v s)⟩

/-! ### The header byte (R84, R132) -/

/-- The fields of a header byte stand low bits first. -/
theorem selectorOf_eq_shift (a b c d : BitVec 2) (g : Nat) :
    selectorOf a b c d g = ((d ++ c ++ b ++ a : Byte) >>> (g % 4 * 2)).setWidth 2 := by
  obtain ⟨hd, hc, hb, ha⟩ := fields_of_append d c b a
  rw [setWidth_ushiftRight, selectorOf]
  have hg : g % 4 = 0 ∨ g % 4 = 1 ∨ g % 4 = 2 ∨ g % 4 = 3 := by omega
  rcases hg with h | h | h | h <;> simp only [Config.selPerHdr, h, Nat.reduceMul, ha, hb, hc, hd]

/-- Settles O21: the extracted selector is the field the shift brings down. -/
theorem headerByteSelects : Obligations.HeaderByteSelects := by
  intro s a b c d
  rw [← selectorOf_eq_shift]
  rfl

/-! ### The delta pass (R94, R146, R152) -/

theorem exec_zz (s : State) (m : BitVec 7) (odd : Bool) :
    exec (if odd then .zzNeg m else .zzPos m) s =
      .next (deltaStep (if odd then unzigzag (m ++ 1#1) else unzigzag (m ++ 0#1)) s) := by
  cases odd
  · simp only [Bool.false_eq_true, if_false, unzigzag_append_zero]; rfl
  · simp only [if_true, unzigzag_append_one]; rfl

theorem deltaStep_stepsDelta (d : Byte) (s : State) : StepsDelta d s (deltaStep d s) := by
  have hself := writeBlk_cell_self s (s.i * s.vsize.toNat + s.k) (d + s.p)
  have hother : SameCellsOutside .blk (s.i * s.vsize.toNat + s.k) 1 s (s.writeBlk (s.i * s.vsize.toNat + s.k) (d + s.p)) :=
    fun x hx => writeBlk_cell_other s _ .blk fun _ => by omega
  rcases deltaStep_cases d s with ⟨hi, e⟩ | ⟨hi, hk, e⟩ | ⟨hi, hk, e⟩ <;> rw [e] <;>
    refine ⟨hself, hother, rfl, ?_⟩
  · simp [hi]
  · simp [hi, hk]
  · simp [hi, hk]

theorem deltaStep_frame (d : Byte) (s : State) :
    (deltaStep d s).cur = s.cur ∧ SameOutside s (deltaStep d s) ∧ SameBlock s (deltaStep d s) ∧
    SameCodeLoop s (deltaStep d s) ∧ SameCells .lastv s (deltaStep d s) ∧ SameCells .col s (deltaStep d s) := by
  rcases deltaStep_cases d s with ⟨_, e⟩ | ⟨_, _, e⟩ | ⟨_, _, e⟩ <;> rw [e] <;>
    exact ⟨rfl, ⟨⟨rfl, rfl, rfl, rfl, rfl, rfl, rfl, rfl⟩, ⟨rfl, rfl, rfl⟩, State.cell_congr rfl rfl rfl,
      State.cell_congr rfl rfl rfl⟩, ⟨rfl, rfl, rfl, rfl, rfl⟩, ⟨rfl, rfl, rfl, rfl, rfl⟩, State.cell_congr rfl rfl rfl,
      State.cell_congr rfl rfl rfl⟩

/-- Settles O27: both residuals are one `deltaStep`. -/
theorem residualStepsTheDelta : Obligations.ResidualStepsTheDelta :=
  fun s m odd => ⟨_, exec_zz s m odd, deltaStep_stepsDelta _ s, deltaStep_frame _ s⟩

/-! ### The snapshot (R91, R168) -/

/-- Byte `v` of the snapshot is stored in `LASTV[k]`; then the next one, or the block loop (R168, R170, R172). -/
def snapshotByte (v : Byte) (s : State) : State :=
  if s.k + 1 < s.vsize.toNat then { s.writeLastv s.k v with k := s.k + 1 }
  else { s.writeLastv s.k v with bsize := blockSize s.vsize.toNat, voff := 0, pos := .blockLoop }

theorem exec_snap (v : Byte) (s : State) : exec (.snap v) s = .next (snapshotByte v s) := rfl

theorem snapshotByte_cases (v : Byte) (s : State) :
    (s.k + 1 < s.vsize.toNat ∧ snapshotByte v s = { s.writeLastv s.k v with k := s.k + 1 }) ∨
    (¬ s.k + 1 < s.vsize.toNat ∧ snapshotByte v s =
      { s.writeLastv s.k v with bsize := blockSize s.vsize.toNat, voff := 0, pos := .blockLoop }) := by
  unfold snapshotByte
  by_cases h : s.k + 1 < s.vsize.toNat
  · exact .inl ⟨h, if_pos h⟩
  · exact .inr ⟨h, if_neg h⟩

theorem snapshotByte_stores (v : Byte) (s : State) :
    (snapshotByte v s).cell .lastv s.k = v ∧ SameCellsOutside .lastv s.k 1 s (snapshotByte v s) := by
  have hself := writeLastv_cell_self s s.k v
  have hother : SameCellsOutside .lastv s.k 1 s (s.writeLastv s.k v) :=
    fun x hx => writeLastv_cell_other s v .lastv fun _ => by omega
  rcases snapshotByte_cases v s with ⟨_, e⟩ | ⟨_, e⟩ <;> rw [e] <;> exact ⟨hself, hother⟩

/-- What a snapshot byte leaves alone. -/
theorem snapshotByte_frame (v : Byte) (s : State) :
    let t := snapshotByte v s
    SameOutside s t ∧ t.bcount = s.bcount ∧ t.n = s.n ∧ t.hdr = s.hdr ∧ SameCodeLoop s t ∧ t.i = s.i ∧ t.p = s.p ∧
    SameCells .col s t ∧ SameCells .blk s t := by
  dsimp only
  rcases snapshotByte_cases v s with ⟨_, e⟩ | ⟨_, e⟩ <;> rw [e] <;>
    exact ⟨⟨⟨rfl, rfl, rfl, rfl, rfl, rfl, rfl, rfl⟩, ⟨rfl, rfl, rfl⟩, State.cell_congr rfl rfl rfl,
      State.cell_congr rfl rfl rfl⟩, rfl, rfl, rfl, ⟨rfl, rfl, rfl, rfl, rfl⟩, rfl, rfl, State.cell_congr rfl rfl rfl,
      State.cell_congr rfl rfl rfl⟩

/-- Settles O35: the byte is stored, and after the last one the block loop begins. -/
theorem snapshotByteInitialisesLastVertex : Obligations.SnapshotByteInitialisesLastVertex := by
  intro s v
  refine ⟨_, exec_snap v s, (snapshotByte_stores v s).1, (snapshotByte_stores v s).2, ?_⟩
  have hframe := snapshotByte_frame v s
  rcases snapshotByte_cases v s with ⟨hk, e⟩ | ⟨hk, e⟩ <;> rw [e] at hframe ⊢
  · exact ⟨rfl, fun _ => ⟨rfl, rfl, rfl, rfl⟩, fun hlast => absurd hk hlast, hframe⟩
  · exact ⟨rfl, fun hmore => absurd hmore hk, fun _ => ⟨rfl, rfl, rfl, rfl⟩, hframe⟩

/-! ### All stream elements (R66, R180, R206) -/

theorem packedResidual_sameOutside (form : CodeForm) (v : Byte) (ov : Nat) (s : State) :
    SameOutside s (packedResidual form v ov s) := by
  obtain ⟨_, _, hsame, _⟩ := packedResidual_spec form v ov s
  exact hsame.sameOutside

theorem deltaStep_sameOutside (d : Byte) (s : State) : SameOutside s (deltaStep d s) := by
  obtain ⟨_, hsame, _⟩ := deltaStep_frame d s
  exact hsame

theorem snapshotByte_sameOutside (v : Byte) (s : State) : SameOutside s (snapshotByte v s) := by
  obtain ⟨hsame, _⟩ := snapshotByte_frame v s
  exact hsame

/-- A stream element completes in every state, and touches nothing that the host can reach. -/
theorem exec_stream {i : Instr} (h : i.slot ≠ .ctrl) (s : State) : ∃ t, exec i s = .next t ∧ SameOutside s t := by
  cases i with
  | grpZ => exact ⟨_, exec_grpZ s, (endGroup_sameInGroup s.cur (s.writeColRun _ _)).sameOutside⟩
  | c2Lit0 | c2Lit1 | c2Lit2 | c4Lit0 | c4Lit1 | c4Lit2 | c4Lit3 | c4Lit4 | c4Lit5 | c4Lit6 | c4Lit7 | c4Lit8 | c4Lit9
  | c4Lit10 | c4Lit11 | c4Lit12 | c4Lit13 | c4Lit14 => exact ⟨_, rfl, packedResidual_sameOutside _ _ s.ov s⟩
  | ovf v => exact ⟨_, exec_ovf v s, packedResidual_sameOutside ..⟩
  | raw v => exact ⟨_, exec_raw v s, (rawResidual_sameInGroup v s).sameOutside⟩
  | snap v => exact ⟨_, exec_snap v s, snapshotByte_sameOutside v s⟩
  | zzPos m | zzNeg m => exact ⟨_, rfl, deltaStep_sameOutside _ s⟩
  | cmdNone r | cmdStart r | cmdClear r | cmdRsvd r => exact absurd rfl h
  | _ => exact ⟨_, rfl, ⟨rfl, rfl, rfl, rfl, rfl, rfl, rfl, rfl⟩, ⟨rfl, rfl, rfl⟩, State.cell_congr rfl rfl rfl,
      State.cell_congr rfl rfl rfl⟩

/-- Settles O36: by the kind of element. -/
theorem streamElementsStayInside : Obligations.StreamElementsStayInside := fun _ s h => exec_stream h s

/-! ### Commands (R29, R179, R182) -/

section Start

variable {s : State} (r : BitVec 30)

theorem exec_cmdStart_of_idle (hidle : s.engine = .idle) :
    exec (.cmdStart r) s = if s.capacitiesHold then .next (beginDecode s) else .refused .startBeyondCapacity :=
  if_pos hidle

theorem exec_cmdStart_of_not_idle (h : s.engine ≠ .idle) : exec (.cmdStart r) s = .next s := if_neg h

end Start

theorem beginDecode_sameCells (s : State) (bank : Bank) : SameCells bank s (beginDecode s) :=
  State.cell_congr (by cases bank <;> rfl) rfl rfl

/-- Settles O42: an accepted START is `beginDecode`. -/
theorem startCommand : Obligations.StartCommand := by
  refine fun s r => ⟨fun hidle hcap => ?_, fun hidle hcap => ?_, exec_cmdStart_of_not_idle r⟩
  · refine ⟨beginDecode s, by rw [exec_cmdStart_of_idle r hidle, if_pos hcap], rfl, rfl, rfl, rfl, rfl, rfl,
      ⟨rfl, rfl, rfl, rfl, rfl, rfl, rfl, rfl⟩, beginDecode_sameCells s, ⟨rfl, rfl, rfl, rfl, rfl⟩, rfl,
      ⟨rfl, rfl, rfl, rfl, rfl⟩, rfl, rfl⟩
  · rw [exec_cmdStart_of_idle r hidle, hcap, if_neg Bool.false_ne_true]

/-- Settles O44: neither command has an effect. -/
theorem otherCommandsDoNothing : Obligations.OtherCommandsDoNothing := fun _ _ => ⟨rfl, rfl⟩

/-! ### Taking an exception (R201, R202) -/

theorem takeException_sameCells (c : Cause) (s : State) {bank : Bank} (h : bank ≠ .output) :
    SameCells bank s (takeException c s) := by
  intro a
  cases bank with
  | output => exact absurd rfl h
  | _ => rfl

theorem takeException_sameOperands (c : Cause) (s : State) : SameOperands s (takeException c s) :=
  ⟨rfl, rfl, rfl, rfl, rfl, rfl, rfl, rfl⟩

/-- Settles O47: `takeException` writes STATE, ERR, CAUSE and the place, and unlists OUT. -/
theorem exceptionEntry : Obligations.ExceptionEntry := by
  intro s c
  exact ⟨rfl, rfl, rfl, rfl, rfl, rfl, takeException_sameOperands c s, ⟨rfl, rfl, rfl, rfl, rfl⟩, rfl,
    ⟨rfl, rfl, rfl, rfl, rfl⟩, rfl, rfl, takeException_sameCells c s (by decide), takeException_sameCells c s (by decide),
    takeException_sameCells c s (by decide), takeException_sameCells c s (by decide), fun _ => rfl⟩

end Sys2Proof.Machine


/-! The step (43_stream_decoder.md, 70_reset_and_hazards.md, 93_implementation_defined.md): a turn of the engine and the
element it meets (R97, R58), an access of the host (R28 to R36, R50, R220), and what both of them leave alone (R66, R178). -/

namespace Sys2Proof.Machine

/-! ### A turn of the engine -/

theorem engineTurn_of_rest {s : State} (h : s.rst = true ∨ s.engine ≠ .busy) : engineTurn s = .next s := if_pos h

section Turn

variable {s : State} (hbusy : s.engine = .busy) (hrst : s.rst = false)
include hbusy hrst

theorem engineTurn_operands (hpos : s.pos = .operands) : engineTurn s = .next (checkOperands s) := by
  rw [engineTurn, if_neg (by simp [hrst, hbusy]), hpos]

theorem engineTurn_blockLoop (hpos : s.pos = .blockLoop) : engineTurn s = .next (enterBlock s) := by
  rw [engineTurn, if_neg (by simp [hrst, hbusy]), hpos]

theorem engineTurn_column (hpos : s.pos = .column) : engineTurn s = .next (enterColumn s) := by
  rw [engineTurn, if_neg (by simp [hrst, hbusy]), hpos]

theorem engineTurn_commit (hpos : s.pos = .commit) : engineTurn s = commitBlock s := by
  rw [engineTurn, if_neg (by simp [hrst, hbusy]), hpos]

/-- Where an element is before the engine, the turn runs it; at a group, after a passed margin check. -/
theorem engineTurn_element (hmargin : s.pos = .group → s.marginOk = true) {slot : Slot} {bits : Word}
    (hp : s.presented = .element slot bits) : engineTurn s = runBits slot bits s := by
  have hrun : runElement s = runBits slot bits s := by rw [runElement, hp]
  rw [← hrun]
  cases hpos : s.pos with
  | group => rw [engineTurn_group hrst hbusy hpos, if_pos (hmargin hpos)]
  | quiet | operands | blockLoop | column | commit =>
    rw [State.presented, hpos] at hp
    cases hp
  | _ => rw [engineTurn, if_neg (by simp [hrst, hbusy]), hpos]

end Turn

theorem runBits_of_decode {slot : Slot} {bits : Word} {i : Instr} (h : decode slot bits = .ok i) (s : State) :
    runBits slot bits s = exec i s := by
  rw [runBits, h]

/-- Settles O5: the turn decodes the presented bits at their position and runs the element. -/
theorem stepRunsElement : Obligations.StepRunsElement := by
  intro s slot bits i hrun hmargin hp hdecode
  have ⟨hbusy, hrst, _⟩ := hrun
  rw [step_running hrun, engineTurn_element hbusy hrst hmargin hp, runBits_of_decode hdecode]

/-- Settles O7: a byte below INLEN is presented from its address, the other elements from the place, the latched byte and
COL. -/
theorem elementsStandWhereTheRulesSay : Obligations.ElementsStandWhereTheRulesSay := by
  intro s hcap
  refine ⟨fun hpos hlen => ?_, fun hpos _ hk => ?_, fun hpos ha => ?_, fun sel hpos => ?_, fun hpos hform ha => ?_,
    fun hpos hform ha => ?_, fun hpos hform => ?_, fun hpos hform => ?_, fun hpos ha => ?_, fun hpos ha => ?_,
    fun hpos => ?_⟩ <;> simp only [State.presented, hpos]
  · exact presentIn_of_lt hcap .tag hlen
  · exact presentIn_of_lt hcap .snapshot (by omega)
  · exact presentIn_of_lt hcap .header ha
  · rw [hform]; exact presentIn_of_lt hcap .pack2 ha
  · rw [hform]; exact presentIn_of_lt hcap .pack4 ha
  · rw [hform, CodeForm.codeAt, BitVec.setWidth_setWidth (by decide)]; rfl
  · rw [hform, CodeForm.codeAt, BitVec.setWidth_setWidth (by decide)]; rfl
  · exact presentIn_of_lt hcap .overflow ha
  · exact presentIn_of_lt hcap .raw ha

/-- Settles O22: column entry is the engine's own action. -/
theorem columnEntry : Obligations.ColumnEntry := by
  intro s hrun hpos
  have ⟨hbusy, hrst, _⟩ := hrun
  rw [step_running hrun, engineTurn_column hbusy hrst hpos]
  rfl

/-- Settles O30: the outcomes of the head of the block loop exclude each other. -/
theorem blockLoopHead : Obligations.BlockLoopHead := by
  intro s hrun hpos
  have ⟨hbusy, hrst, _⟩ := hrun
  have hcount : s.nextBlockCount = min s.bsize (s.vcount.toNat - s.voff) := rfl
  rw [step_running hrun, engineTurn_blockLoop hbusy hrst hpos, ← hcount]
  rcases enterBlock_cases s with ⟨hend, e⟩ | ⟨hmore, hout, e⟩ | ⟨hmore, hin, e⟩ <;> rw [e]
  · exact ⟨fun _ => rfl, fun h => absurd h hend⟩
  · exact ⟨by omega, fun _ => ⟨by omega, fun _ => rfl⟩⟩
  · exact ⟨by omega, fun _ => ⟨fun _ => rfl, by omega⟩⟩

/-- Settles O48: outside BUSY a turn of the engine does nothing (R210). -/
theorem engineQuiescentUnlessBusy : Obligations.EngineQuiescentUnlessBusy := by
  intro s hpending hidle
  rw [step, turn, hpending]
  exact engineTurn_of_rest (.inr hidle)

/-! ### An access of the host -/

theorem step_access {s : State} {op : HostOp} {rest : List HostOp} (h : s.pending = op :: rest) (hop : op ≠ .await) :
    step s = hostAccess op { s with pending := rest } := by
  rw [step, turn, h]
  cases op with
  | await => exact absurd rfl hop
  | _ => rfl

theorem partialAccess_eq_true_iff (width : AccessWidth) (offset : Nat) :
    partialAccess width offset = true ↔ width ≠ .word ∨ offset % 4 ≠ 0 := decide_eq_true_iff

theorem partialAccess_word {offset : Nat} (h : offset % 4 = 0) : partialAccess .word offset = false := by
  rw [partialAccess, h]; rfl

section Register

variable {s : State} {rest : List HostOp} {offset : Nat} {v : Word}

theorem step_readReg (h : s.pending = .readReg .word offset :: rest) (haligned : offset % 4 = 0) :
    step s = .next (readRegister offset { s with pending := rest }) := by
  rw [step_access h (by simp), hostAccess, partialAccess_word haligned]
  rfl

theorem step_writeReg (h : s.pending = .writeReg .word offset v :: rest) (haligned : offset % 4 = 0) :
    step s = if s.rst then .next { s with pending := rest }
      else if offset = 0x00 then runBits .ctrl v { s with pending := rest }
      else .next (writeRegister offset v { s with pending := rest }) := by
  rw [step_access h (by simp), hostAccess, partialAccess_word haligned]
  rfl

theorem registerWord_of_ge (s : State) (h : 0x18 ≤ offset) : s.registerWord offset = 0#32 := by
  unfold State.registerWord
  split
  case h_6 => rfl
  all_goals omega

theorem writeRegister_of_not_idle (h : s.engine ≠ .idle) : writeRegister offset v s = s := by
  unfold writeRegister
  split
  · next hidle => exact absurd hidle h
  all_goals rfl

theorem writeRegister_of_no_operand (h : offset = 0x04 ∨ 0x14 ≤ offset) : writeRegister offset v s = s := by
  unfold writeRegister
  split
  · split
    case h_4 => rfl
    all_goals omega
  all_goals rfl

end Register

/-- Settles O6: a CTRL word of any bits decodes to a command. -/
theorem stepRunsCommand : Obligations.StepRunsCommand := by
  intro s v rest hpending hrst
  refine ⟨decodeCtrl v, rfl, (wellFormedAt_iff _ _).mpr (decode_slot (w := v) rfl), ?_⟩
  rw [step_writeReg hpending (by decide), hrst]
  rfl

/-- Settles O50: a read is `readRegister`, which sets what the host reads and the count of free values only. -/
theorem registerReads : Obligations.RegisterReads := by
  intro s offset rest hpending haligned
  refine ⟨_, step_readReg hpending haligned, rfl, ?_, ?_, ?_, ?_, ?_, ?_, ?_, ?_, registerWord_of_ge _⟩ <;> rintro rfl
  case refine_6 => intro hidle; simp [readRegister, State.registerWord, hidle]
  case refine_7 => rintro (hover | hover) <;> simp [readRegister, State.registerWord, hover]
  case refine_8 => intro hbusy; simp [readRegister, State.registerWord, hbusy]
  all_goals rfl

/-- Settles O51: a write is `writeRegister`, by its offset in IDLE and not at all elsewhere. -/
theorem registerWrites : Obligations.RegisterWrites := by
  intro s offset v rest hpending haligned hctrl hrst
  have hstep : step s = .next (writeRegister offset v { s with pending := rest }) := by
    rw [step_writeReg hpending haligned, hrst, if_neg Bool.false_ne_true, if_neg hctrl]
  rw [hstep]
  refine ⟨?_, ?_, ?_, fun _ hoffset => ?_, fun hidle => ?_⟩
  · rintro hidle rfl; simp only [writeRegister, hidle]
  · rintro hidle rfl; simp only [writeRegister, hidle]
  · rintro hidle rfl; simp only [writeRegister, hidle]
  · rw [writeRegister_of_no_operand hoffset]
  · exact congrArg Host.Outcome.next (writeRegister_of_not_idle hidle)

/-- Settles O52: the width and the alignment are looked at before anything else. -/
theorem partialAccessRefused : Obligations.PartialAccessRefused := by
  intro s width offset v rest hpartial
  have hrefused := (partialAccess_eq_true_iff width offset).mpr hpartial
  constructor <;> intro hpending <;> rw [step_access hpending (by simp), hostAccess, if_pos hrefused]

/-- Settles O53: `hostWriteIn` by STATE, IN_CAP and the reset input. -/
theorem hostWritesInput : Obligations.HostWritesInput := by
  intro s a v rest hpending
  have hstep : step s = hostWriteIn a v { s with pending := rest } := step_access hpending (by simp)
  rw [hstep, hostWriteIn]
  refine ⟨fun hbusy => if_pos hbusy, fun hbusy hcap => ?_, fun hbusy hcap hrst => ?_, fun hbusy hcap hrst => ?_⟩ <;>
    rw [if_neg hbusy, hcap]
  · rfl
  · exact ⟨State.writeIn { s with pending := rest } a v, by rw [if_pos rfl, if_neg (by simp [hrst])],
      writeIn_cell_self .., fun x hx => writeIn_cell_other _ v .input fun _ => by omega, rfl⟩
  · rw [if_pos rfl, if_pos hrst]

/-- Settles O54: `hostReadOut` by OUT_CAP and STATE; the two accesses that are none are refused. -/
theorem hostReadsOutput : Obligations.HostReadsOutput := by
  intro s a v rest
  have hstep (h : s.pending = .readOut a :: rest) : step s = hostReadOut a { s with pending := rest } :=
    step_access h (by simp)
  refine ⟨fun h hcap hstate => ?_, fun h hcap hstate => ?_, fun h hcap => ?_, fun h => step_access h (by simp),
    fun h => step_access h (by simp)⟩ <;> rw [hstep h, hostReadOut, hcap]
  · have hspecified : ¬ s.outUnspecified = true := by rcases hstate with h | h <;> simp [State.outUnspecified, h]
    exact if_neg hspecified
  · have hunspecified : s.outUnspecified = true := decide_eq_true hstate
    exact if_pos hunspecified
  · rfl

/-! ### Reset (R39, R220) -/

/-- Settles O55: the reset state lists its fields, and no cell. -/
theorem resetValues : Obligations.ResetValues :=
  ⟨rfl, rfl, rfl, rfl, rfl, rfl, rfl, rfl, rfl, rfl, fun bank _ => by cases bank <;> rfl⟩

/-- In reset STATUS reads as after reset. -/
theorem resetState_statusWord (s : State) : (resetState s).statusWord = 0#32 := by
  have hreset : State.reset.statusWord = 0#32 := rfl
  rw [← hreset]
  rfl

/-- Settles O56: `driveReset`, and a register write that the reset input masks. -/
theorem resetInput : Obligations.ResetInput := by
  intro s rest
  refine ⟨fun h => ⟨resetState { s with pending := rest }, step_access h (by simp), rfl, rfl, rfl, rfl, rfl, rfl,
    rfl, rfl, rfl, resetState_statusWord _, rfl, rfl, fun _ => rfl, fun bank a hbank => ?_⟩, fun h => step_access h (by simp),
    fun offset v h haligned hrst => ?_⟩
  · cases bank with
    | output => exact absurd rfl hbank
    | _ => rfl
  · rw [step_writeReg h haligned, if_pos hrst]

/-! ### What an access can do -/

section Access

variable {s t : State}

/-- A command is ignored, or an accepted START, or an accepted CLEAR (R178 to R182). -/
theorem exec_command_cases {c : BitVec 2} {r : BitVec 30} (h : exec (commandOf c r) s = .next t) :
    t = s ∨ (s.engine = .idle ∧ s.capacitiesHold = true ∧ t = beginDecode s) ∨
    ((s.engine = .done ∨ s.engine = .error) ∧ t = returnToIdle s) := by
  unfold commandOf at h
  split at h
  · exact .inl (Host.Outcome.next.inj h).symm
  · by_cases hidle : s.engine = .idle
    · rw [exec_cmdStart_of_idle r hidle] at h
      split at h
      · next hcap => exact .inr (.inl ⟨hidle, hcap, (Host.Outcome.next.inj h).symm⟩)
      · cases h
    · rw [exec_cmdStart_of_not_idle r hidle] at h
      exact .inl (Host.Outcome.next.inj h).symm
  · by_cases hover : s.engine = .done ∨ s.engine = .error
    · rw [exec_cmdClear_of_over r hover] at h
      exact .inr (.inr ⟨hover, (Host.Outcome.next.inj h).symm⟩)
    · have hnot : s.engine = .idle ∨ s.engine = .busy := by
        cases he : s.engine <;> simp [he] at hover ⊢
      rw [exec_cmdClear_of_not_over r hnot] at h
      exact .inl (Host.Outcome.next.inj h).symm
  · exact .inl (Host.Outcome.next.inj h).symm

/-- What one access of the host can do, taken off the list already. -/
theorem hostAccess_cases {op : HostOp} (h : hostAccess op s = .next t) :
    t = s ∨
    (∃ c r, s.rst = false ∧ exec (commandOf c r) s = .next t) ∨
    (∃ offset v, s.rst = false ∧ t = writeRegister offset v s) ∨
    (∃ w n, t = { s with readData := w, freeCount := n }) ∨
    (∃ a v, s.engine ≠ .busy ∧ s.rst = false ∧ capacityHolds s.config.inCap (a + 1) = true ∧ t = s.writeIn a v) ∨
    (∃ ops, t = { s with pending := ops }) ∨
    (∃ level, op = .setRst level ∧ t = driveReset level s) ∨
    engineTurn s = .next t := by
  cases op <;> simp only [hostAccess] at h
  case writeReg width offset v =>
    split at h
    · cases h
    · split at h
      · exact .inl (Host.Outcome.next.inj h).symm
      · next hrst =>
        rw [Bool.not_eq_true] at hrst
        split at h
        · exact .inr (.inl ⟨_, _, hrst, h⟩)
        · exact .inr (.inr (.inl ⟨offset, v, hrst, (Host.Outcome.next.inj h).symm⟩))
  case readReg width offset =>
    split at h
    · cases h
    · exact .inr (.inr (.inr (.inl ⟨_, _, (Host.Outcome.next.inj h).symm⟩)))
  case writeIn a v =>
    unfold hostWriteIn at h
    split at h
    · cases h
    · next hbusy =>
      split at h
      · next hcap =>
        obtain rfl := Host.Outcome.next.inj h
        by_cases hrst : s.rst = true
        · exact .inl (if_pos hrst)
        · rw [if_neg hrst]
          exact .inr (.inr (.inr (.inr (.inl ⟨a, v, hbusy, by simpa using hrst, hcap, rfl⟩))))
      · cases h
  case readOut a =>
    unfold hostReadOut at h
    split at h
    · split at h <;> exact .inr (.inr (.inr (.inl ⟨_, _, (Host.Outcome.next.inj h).symm⟩)))
    · cases h
  case readIn => cases h
  case writeOut => cases h
  case readOutcome count =>
    exact .inr (.inr (.inr (.inr (.inr (.inl ⟨_, (Host.Outcome.next.inj h).symm⟩)))))
  case setRst level =>
    exact .inr (.inr (.inr (.inr (.inr (.inr (.inl ⟨level, rfl, (Host.Outcome.next.inj h).symm⟩))))))
  case pass => exact .inr (.inr (.inr (.inr (.inr (.inr (.inr h))))))
  case await => exact .inl (Host.Outcome.next.inj h).symm

/-- A register write changes an operand register at most, and that in IDLE only. -/
theorem writeRegister_cases (offset : Nat) (v : Word) (s : State) :
    writeRegister offset v s = s ∨
    (s.engine = .idle ∧ ∃ a b c, writeRegister offset v s = { s with vcount := a, vsize := b, inlen := c }) := by
  unfold writeRegister
  split
  · next hidle =>
    split <;> exact .inr ⟨hidle, _, _, _, rfl⟩
  all_goals exact .inl rfl

/-! ### What a turn of the engine leaves alone -/

/-- No element of the stream is a command. -/
theorem presented_slot_ne_ctrl {slot : Slot} {bits : Word} (h : s.presented = .element slot bits) : slot ≠ .ctrl := by
  have hin (p : Slot) (a : Nat) (hp : s.presentIn p a = .element slot bits) : slot = p := by
    unfold State.presentIn at hp
    split at hp
    · split at hp <;> cases hp; rfl
    · cases hp
  cases hpos : s.pos <;> simp only [State.presented, hpos] at h
  case tag | snapshot | group | overflow | raw => rw [hin _ _ h]; decide
  case packed => rw [hin _ _ h]; cases s.form <;> decide
  case selector => cases h; decide
  case code => cases h; cases s.form <;> decide
  case residual => cases h; decide
  all_goals cases h

/-- An element run by a turn touches nothing the host can reach; a wrong tag is an exception. -/
theorem runElement_outside (h : runElement s = .next t) : SameOutside s t ∨ t = takeException .badTag s := by
  rcases runElement_cases h with ⟨slot, _, i, hp, _, hslot, hexec⟩ | ⟨_, _, ht⟩ | ⟨_, rfl⟩
  · obtain ⟨u, hu, hsame⟩ := exec_stream (hslot ▸ presented_slot_ne_ctrl hp) s
    obtain rfl := Host.Outcome.next.inj (hexec.symm.trans hu)
    exact .inl hsame
  · exact .inr ht
  · exact .inl (SameOutside.refl _)

/-- What a turn does to STATE, ERR and CAUSE: nothing, an exception, or completion. -/
theorem engineTurn_status (h : engineTurn s = .next t) :
    SameStatus s t ∨ (s.engine = .busy ∧ ((∃ c, t = takeException c s) ∨ t = completeDecode s)) := by
  rcases engineTurn_cases h with ⟨_, rfl⟩ | ⟨_, hbusy, ⟨_, rfl⟩ | ⟨_, rfl⟩ | ⟨_, rfl⟩ | ⟨_, hcommit⟩ | ⟨_, _, rfl⟩ |
    ⟨_, hrun⟩⟩
  · exact .inl ⟨rfl, rfl, rfl⟩
  · rcases checkOperands_cases s with ⟨_, e⟩ | ⟨_, _, e⟩ | ⟨_, _, _, e⟩ | ⟨_, e⟩ <;> rw [e]
    · exact .inr ⟨hbusy, .inl ⟨_, rfl⟩⟩
    · exact .inr ⟨hbusy, .inl ⟨_, rfl⟩⟩
    · exact .inr ⟨hbusy, .inl ⟨_, rfl⟩⟩
    · exact .inl ⟨rfl, rfl, rfl⟩
  · rcases enterBlock_cases s with ⟨_, e⟩ | ⟨_, _, e⟩ | ⟨_, _, e⟩ <;> rw [e]
    · exact .inr ⟨hbusy, .inr rfl⟩
    · exact .inr ⟨hbusy, .inl ⟨_, rfl⟩⟩
    · exact .inl ⟨rfl, rfl, rfl⟩
  · exact .inl ⟨rfl, rfl, rfl⟩
  · obtain ⟨_, rfl⟩ := commitBlock_next hcommit
    exact .inl ⟨rfl, rfl, rfl⟩
  · exact .inr ⟨hbusy, .inl ⟨_, rfl⟩⟩
  · rcases runElement_outside hrun with ⟨_, hstatus, _⟩ | rfl
    · exact .inl hstatus
    · exact .inr ⟨hbusy, .inl ⟨_, rfl⟩⟩

/-- The operand registers, the parameters, the host's own fields and every byte of IN are the same. -/
def SameInput (s t : State) : Prop := SameOperands s t ∧ SameCells .input s t

theorem SameOutside.sameInput (h : SameOutside s t) : SameInput s t := by
  obtain ⟨hoperands, _, hinput, _⟩ := h
  exact ⟨hoperands, hinput⟩

theorem takeException_sameInput (c : Cause) (s : State) : SameInput s (takeException c s) :=
  ⟨takeException_sameOperands c s, takeException_sameCells c s (by decide)⟩

/-- Two states whose operands, IN and epochs are the same fields. -/
theorem sameInput_of_eqs (hoperands : SameOperands s t) (hin : t.inBuf = s.inBuf)
    (hr : t.resetEpoch = s.resetEpoch) : SameInput s t :=
  ⟨hoperands, fun a => by simp only [State.cell_eq, State.bank, State.unlisted, hin, hr]⟩

/-- No turn of the engine changes an operand or a byte of IN (R66, R180). -/
theorem engineTurn_sameInput (h : engineTurn s = .next t) : SameInput s t := by
  rcases engineTurn_cases h with ⟨_, rfl⟩ | ⟨_, hbusy, ⟨_, rfl⟩ | ⟨_, rfl⟩ | ⟨_, rfl⟩ | ⟨_, hcommit⟩ | ⟨_, _, rfl⟩ |
    ⟨_, hrun⟩⟩
  · exact (SameOutside.refl _).sameInput
  · rcases checkOperands_cases s with ⟨_, e⟩ | ⟨_, _, e⟩ | ⟨_, _, _, e⟩ | ⟨_, e⟩ <;> rw [e]
    · exact takeException_sameInput _ s
    · exact takeException_sameInput _ s
    · exact takeException_sameInput _ s
    · exact sameInput_of_eqs ⟨rfl, rfl, rfl, rfl, rfl, rfl, rfl, rfl⟩ rfl rfl
  · rcases enterBlock_cases s with ⟨_, e⟩ | ⟨_, _, e⟩ | ⟨_, _, e⟩ <;> rw [e]
    · exact sameInput_of_eqs ⟨rfl, rfl, rfl, rfl, rfl, rfl, rfl, rfl⟩ rfl rfl
    · exact takeException_sameInput _ s
    · exact sameInput_of_eqs ⟨rfl, rfl, rfl, rfl, rfl, rfl, rfl, rfl⟩ rfl rfl
  · exact sameInput_of_eqs ⟨rfl, rfl, rfl, rfl, rfl, rfl, rfl, rfl⟩ rfl rfl
  · obtain ⟨_, rfl⟩ := commitBlock_next hcommit
    exact sameInput_of_eqs ⟨rfl, rfl, rfl, rfl, rfl, rfl, rfl, rfl⟩ rfl rfl
  · exact takeException_sameInput _ s
  · rcases runElement_outside hrun with hsame | rfl
    · exact hsame.sameInput
    · exact takeException_sameInput _ s

end Access

/-! ### The state diagram (R178) -/

/-- An arrow of the diagram of R178, or no change. -/
def Arrow (a b : EngineState) : Prop :=
  b = a ∨ (a = .idle ∧ b = .busy) ∨ (a = .busy ∧ b = .done) ∨ (a = .busy ∧ b = .error) ∨ (a = .done ∧ b = .idle) ∨
  (a = .error ∧ b = .idle)

section Diagram

variable {s t : State}

theorem engineTurn_arrow (h : engineTurn s = .next t) : Arrow s.engine t.engine := by
  rcases engineTurn_status h with ⟨hsame, _⟩ | ⟨hbusy, ⟨c, rfl⟩ | rfl⟩
  · exact .inl hsame
  · exact .inr (.inr (.inr (.inl ⟨hbusy, rfl⟩)))
  · exact .inr (.inr (.inl ⟨hbusy, rfl⟩))

theorem exec_command_arrow {c : BitVec 2} {r : BitVec 30} (h : exec (commandOf c r) s = .next t) :
    Arrow s.engine t.engine := by
  rcases exec_command_cases h with rfl | ⟨hidle, _, rfl⟩ | ⟨hover, rfl⟩
  · exact .inl rfl
  · exact .inr (.inl ⟨hidle, rfl⟩)
  · rcases hover with hdone | herror
    · exact .inr (.inr (.inr (.inr (.inl ⟨hdone, rfl⟩))))
    · exact .inr (.inr (.inr (.inr (.inr ⟨herror, rfl⟩))))

/-- An access follows an arrow, but for the reset input driven high. -/
theorem hostAccess_arrow {op : HostOp} (h : hostAccess op s = .next t) :
    Arrow s.engine t.engine ∨ (t.engine = .idle ∧ t.rst = true) := by
  rcases hostAccess_cases h with rfl | ⟨_, _, _, hexec⟩ | ⟨offset, v, _, rfl⟩ | ⟨_, _, rfl⟩ | ⟨_, _, _, _, _, rfl⟩ |
    ⟨_, rfl⟩ | ⟨level, _, rfl⟩ | hturn
  · exact .inl (.inl rfl)
  · exact .inl (exec_command_arrow hexec)
  · rcases writeRegister_cases offset v s with e | ⟨_, _, _, _, e⟩ <;> rw [e] <;> exact .inl (.inl rfl)
  · exact .inl (.inl rfl)
  · exact .inl (.inl rfl)
  · exact .inl (.inl rfl)
  · cases level
    · exact .inl (.inl rfl)
    · exact .inr ⟨rfl, rfl⟩
  · exact .inl (engineTurn_arrow hturn)

/-- Settles O45: a turn of the engine and an access of the host each follow an arrow or are a reset. -/
theorem stateDiagram : Obligations.StateDiagram := by
  intro s t h
  have harrow : Arrow s.engine t.engine ∨ (t.engine = .idle ∧ t.rst = true) := by
    rcases step_cases h with ⟨_, hturn⟩ | ⟨_, _, _, hturn⟩ | ⟨op, rest, _, haccess⟩
    · exact .inl (engineTurn_arrow hturn)
    · exact .inl (engineTurn_arrow hturn)
    · exact hostAccess_arrow (s := { s with pending := rest }) haccess
  simpa only [Arrow, or_assoc] using harrow

/-! ### BUSY (R66, R180) -/

/-- What O46 asks of a step: operands, parameters and IN are the same. -/
def KeepsInput (s t : State) : Prop :=
  t.vcount = s.vcount ∧ t.vsize = s.vsize ∧ t.inlen = s.inlen ∧ t.config = s.config ∧ SameCells .input s t

theorem engineTurn_keepsInput (h : engineTurn s = .next t) : KeepsInput s t := by
  obtain ⟨⟨hvcount, hvsize, hinlen, hconfig, _⟩, hcells⟩ := engineTurn_sameInput h
  exact ⟨hvcount, hvsize, hinlen, hconfig, hcells⟩

theorem KeepsInput.refl (s : State) : KeepsInput s s := ⟨rfl, rfl, rfl, rfl, SameCells.refl _ s⟩

/-- While BUSY START and CLEAR are ignored, and so are register writes; IN cannot be written. -/
theorem hostAccess_keepsInput {op : HostOp} (hbusy : s.engine = .busy) (hop : op ≠ .setRst true)
    (h : hostAccess op s = .next t) : KeepsInput s t := by
  rcases hostAccess_cases h with rfl | ⟨_, _, _, hexec⟩ | ⟨offset, v, _, rfl⟩ | ⟨_, _, rfl⟩ | ⟨_, _, hne, _⟩ |
    ⟨_, rfl⟩ | ⟨level, rfl, rfl⟩ | hturn
  · exact KeepsInput.refl _
  · rcases exec_command_cases hexec with rfl | ⟨hidle, _⟩ | ⟨hover, _⟩
    · exact KeepsInput.refl _
    · simp [hbusy] at hidle
    · simp [hbusy] at hover
  · rw [writeRegister_of_not_idle (by simp [hbusy])]
    exact KeepsInput.refl _
  · exact KeepsInput.refl s
  · exact absurd hbusy hne
  · exact KeepsInput.refl s
  · cases level
    · exact KeepsInput.refl s
    · exact absurd rfl hop
  · exact engineTurn_keepsInput hturn

/-- Settles O46: a turn of the engine leaves operands and IN alone, and so does every access but a reset. -/
theorem operandsStableWhileBusy : Obligations.OperandsStableWhileBusy := by
  intro s t hbusy h hreset
  rcases step_cases h with ⟨_, hturn⟩ | ⟨_, _, _, hturn⟩ | ⟨op, rest, hpending, haccess⟩
  · exact engineTurn_keepsInput hturn
  · exact engineTurn_keepsInput hturn
  · refine hostAccess_keepsInput (s := { s with pending := rest }) hbusy (fun hop => hreset ?_) haccess
    rw [hpending, hop]
    rfl

end Diagram

end Sys2Proof.Machine


/-! One turn of the engine as a function (R110 to R114, R133, R152, R172, R173). Under the invariant every turn of a decode
answers the state that `advance` gives for its place; so what a turn does is a fact about `advance`. -/

namespace Sys2Proof.Machine

/-! ### Running the bits of each position -/

theorem withForm_self {s : State} {form : CodeForm} (h : s.form = form) : { s with form := form } = s := by
  subst h; rfl

/-- The header byte `v`: the field of group `g` is extracted (R132). -/
theorem runBits_header (v : Byte) (s : State) :
    runBits .header (v.setWidth 32) s = .next { s with pos := .selector ((v >>> (s.g % 4 * 2)).setWidth 2) } := by
  have hfields := append_of_fields (v.setWidth 32)
  rw [setWidth_carried v (by decide)] at hfields
  rw [runBits_of_decode rfl]
  refine (headerByteSelects s _ _ _ _).trans ?_
  rw [hfields]

/-- A packed byte is latched as it stands. -/
theorem runBits_packed (v : Byte) (s : State) :
    runBits s.form.packedSlot (v.setWidth 32) s = .next (latchPacked v s) := by
  have hcarried := setWidth_carried v (Nat.le_of_ble_eq_true rfl : 8 ≤ 32)
  cases hform : s.form with
  | b2 =>
    have hbyte : packedByte2 _ _ _ _ = _ := append_of_fields (v.setWidth 32)
    rw [CodeForm.packedSlot, runBits_of_decode rfl, exec_pack2, withForm_self hform, hbyte, hcarried]
  | b4 =>
    have hbyte : packedByte4 _ _ = _ := append_of_nibbles (v.setWidth 32)
    rw [CodeForm.packedSlot, runBits_of_decode rfl, exec_pack4, withForm_self hform, hbyte, hcarried]

/-- A code is an escape or a literal (R115). -/
def codeStep (form : CodeForm) (c : Byte) (s : State) : State :=
  if form.escapes c then escapeCode form s else literalCode form c s

/-- Every 2-bit code is the escape or one of the literals of the table. -/
theorem decodeCode2_mem (c : BitVec 2) :
    if CodeForm.b2.escapes (c.setWidth 8) then decodeCode2 c = .c2Esc
    else (decodeCode2 c, CodeForm.b2, c.setWidth 8) ∈ literalCodes := by
  revert c; decide

/-- Every 4-bit code is the escape or one of the literals of the table. -/
theorem decodeCode4_mem (c : BitVec 4) :
    if CodeForm.b4.escapes (c.setWidth 8) then decodeCode4 c = .c4Esc
    else (decodeCode4 c, CodeForm.b4, c.setWidth 8) ∈ literalCodes := by
  revert c; decide

theorem exec_decodeCode2 (c : BitVec 2) (s : State) : exec (decodeCode2 c) s = .next (codeStep .b2 (c.setWidth 8) s) := by
  have hmem := decodeCode2_mem c
  unfold codeStep
  split at hmem
  · next hesc => rw [if_pos hesc, hmem]; rfl
  · next hlit => rw [if_neg hlit, exec_literal s _ hmem]

theorem exec_decodeCode4 (c : BitVec 4) (s : State) : exec (decodeCode4 c) s = .next (codeStep .b4 (c.setWidth 8) s) := by
  have hmem := decodeCode4_mem c
  unfold codeStep
  split at hmem
  · next hesc => rw [if_pos hesc, hmem]; rfl
  · next hlit => rw [if_neg hlit, exec_literal s _ hmem]

/-- A code keeps its bits on the way through the zero-extended byte. -/
theorem setWidth_carried_byte {w : Nat} (c : BitVec w) (h : w ≤ 8) :
    ((c.setWidth 8).setWidth 32).setWidth w = c := by
  rw [BitVec.setWidth_setWidth_of_le _ (by omega), BitVec.setWidth_setWidth_of_le _ h, BitVec.setWidth_eq]

theorem runBits_code (form : CodeForm) (order : CodeOrder) (packed : Byte) (i : Nat) (s : State) :
    runBits form.codeSlot ((form.codeAt order packed i).setWidth 32) s =
      .next (codeStep form (form.codeAt order packed i) s) := by
  cases form with
  | b2 =>
    rw [CodeForm.codeSlot, runBits_of_decode rfl, CodeForm.codeAt, setWidth_carried_byte _ (by decide),
      exec_decodeCode2]
  | b4 =>
    rw [CodeForm.codeSlot, runBits_of_decode rfl, CodeForm.codeAt, setWidth_carried_byte _ (by decide),
      exec_decodeCode4]

theorem runBits_overflow (v : Byte) (s : State) :
    runBits .overflow (v.setWidth 32) s = .next (packedResidual s.form v (s.ov + 1) s) := by
  rw [runBits_of_decode rfl, setWidth_carried v (by decide), exec_ovf]

theorem runBits_raw (v : Byte) (s : State) : runBits .raw (v.setWidth 32) s = .next (rawResidual v s) := by
  rw [runBits_of_decode rfl, setWidth_carried v (by decide), exec_raw]

theorem runBits_snapshot (v : Byte) (s : State) :
    runBits .snapshot (v.setWidth 32) s = .next (snapshotByte v s) := by
  rw [runBits_of_decode rfl, setWidth_carried v (by decide), exec_snap]

/-- A residual steps the delta chain by its `unzigzag` (R94, R146). -/
theorem runBits_residual (v : Byte) (s : State) :
    runBits .residual (v.setWidth 32) s = .next (deltaStep (unzigzag v) s) := by
  rw [runBits_of_decode rfl, setWidth_carried v (by decide)]
  obtain ⟨m, rfl | rfl⟩ := residual_cases v <;> rw [decodeResidual_append]
  · exact exec_zz s m false
  · exact exec_zz s m true

/-- A group of the form that its selector names begins; `GRP.Z` is over at once (R111 to R114). -/
def beginGroup (sel : BitVec 2) (s : State) : State :=
  if sel = 0#2 then endGroup s.cur (s.writeColRun (16 * s.g) (List.replicate 16 0#8))
  else if sel = 3#2 then { s with j := 0, pos := .raw }
  else beginPacked (if sel = 1#2 then .b2 else .b4) s

theorem beginGroup_zero (s : State) :
    beginGroup 0#2 s = endGroup s.cur (s.writeColRun (16 * s.g) (List.replicate 16 0#8)) := rfl

theorem beginGroup_selector (form : CodeForm) (s : State) : beginGroup form.selector s = beginPacked form s := by
  cases form <;> rfl

theorem beginGroup_raw (s : State) : beginGroup 3#2 s = { s with j := 0, pos := .raw } := rfl

theorem runBits_selector (sel : BitVec 2) (s : State) :
    runBits .selector (sel.setWidth 32) s = .next (beginGroup sel s) := by
  rw [runBits_of_decode rfl, setWidth_carried sel (by decide)]
  rcases selector_cases sel with rfl | ⟨form, rfl⟩ | rfl
  · rfl
  · cases form <;> rfl
  · rfl

/-! ### The turn by place -/

/-- The state after a turn of the engine in a decode, by the place where it stands. -/
def advance (s : State) : State :=
  match s.pos with
  | .quiet => s
  | .operands => checkOperands s
  | .tag => if s.cell .input 0 = 0xA0#8 then { s with cur := 1, k := 0, pos := .snapshot } else takeException .badTag s
  | .snapshot => snapshotByte (s.cell .input (s.inlen.toNat - s.vsize.toNat + s.k)) s
  | .blockLoop => enterBlock s
  | .column => enterColumn s
  | .group =>
    if s.marginOk then { s with pos := .selector (selectorAt (s.cell .input) s.hdr s.g) }
    else takeException .tailMargin s
  | .selector sel => beginGroup sel s
  | .packed => latchPacked (s.cell .input (s.cur + s.j / s.form.perByte)) s
  | .code => codeStep s.form (s.form.codeAt s.config.codeOrder s.packed (s.j % s.form.perByte)) s
  | .overflow => packedResidual s.form (s.cell .input s.ov) (s.ov + 1) s
  | .raw => rawResidual (s.cell .input (s.cur + s.j)) s
  | .residual => deltaStep (unzigzag (s.cell .col s.i)) s
  | .commit => committed s

theorem Inv.rst_eq_false {s : State} (h : Inv s) (hbusy : s.engine = .busy) : s.rst = false := by
  obtain ⟨_, _, _, _, hreset, _⟩ := h
  by_contra hrst
  obtain ⟨hidle, _⟩ := hreset (by simpa using hrst)
  simp [hbusy] at hidle

section Place

variable {s : State} (hcap : s.capacitiesHold = true) (hbusy : s.engine = .busy) (hrst : s.rst = false)
include hcap hbusy hrst

/-- Where the element is a byte of IN below INLEN, the turn runs that byte. -/
theorem engineTurn_of_presentIn (hmargin : s.pos = .group → s.marginOk = true) {slot : Slot} {a : Nat}
    (hp : s.presented = s.presentIn slot a) (ha : a < s.inlen.toNat) :
    engineTurn s = runBits slot ((s.cell .input a).setWidth 32) s :=
  engineTurn_element hbusy hrst hmargin (hp.trans (presentIn_of_lt hcap slot ha))

/-- In a decode the turn is `advance`: the invariant puts the byte that each place reads below INLEN. -/
theorem DecodePlace.engineTurn_eq (hplace : DecodePlace s) : engineTurn s = .next (advance s) := by
  have hin {slot : Slot} {a : Nat} := engineTurn_of_presentIn hcap hbusy hrst (slot := slot) (a := a)
  have helement {slot : Slot} {bits : Word} := engineTurn_element hbusy hrst (slot := slot) (bits := bits)
  cases hpos : s.pos <;> simp only [DecodePlace, hpos] at hplace <;> simp only [advance, hpos]
  case operands => exact engineTurn_operands hbusy hrst hpos
  case tag =>
    obtain ⟨⟨_, _, _, hlen⟩, _⟩ := hplace
    rw [hin (by simp [hpos]) (by rw [State.presented, hpos]) (by omega), runBits_tag]
    split <;> rfl
  case snapshot =>
    obtain ⟨⟨_, _, _, hlen⟩, _, hk⟩ := hplace
    rw [hin (by simp [hpos]) (by rw [State.presented, hpos]) (by omega), runBits_snapshot]
  case blockLoop => exact engineTurn_blockLoop hbusy hrst hpos
  case column => exact engineTurn_column hbusy hrst hpos
  case group =>
    obtain ⟨hcolumn, hcur⟩ := hplace
    have hheader : s.hdr + s.g / Config.selPerHdr < s.inlen.toNat := hcolumn.header_lt_cur.trans_le hcur
    cases hmargin : s.marginOk with
    | false => rw [engineTurn_group hrst hbusy hpos, hmargin]; rfl
    | true => rw [hin (fun _ => hmargin) (by rw [State.presented, hpos]) hheader, runBits_header]; rfl
  case selector sel => rw [helement (by simp [hpos]) (by rw [State.presented, hpos]), runBits_selector]
  case packed =>
    obtain ⟨hpacked, _⟩ := hplace
    rw [hin (by simp [hpos]) (by rw [State.presented, hpos]) hpacked.packedByte_lt_inlen, runBits_packed]
  case code => rw [helement (by simp [hpos]) (by rw [State.presented, hpos]), runBits_code]
  case overflow =>
    rw [hin (by simp [hpos]) (by rw [State.presented, hpos]) hplace.overflow_lt_inlen, runBits_overflow]
  case raw =>
    obtain ⟨⟨_, hmargin⟩, hj⟩ := hplace
    rw [hin (by simp [hpos]) (by rw [State.presented, hpos]) (by omega), runBits_raw]
  case residual => rw [helement (by simp [hpos]) (by rw [State.presented, hpos]), runBits_residual]
  case commit =>
    obtain ⟨hblock, _⟩ := hplace
    rw [engineTurn_commit hbusy hrst hpos, hblock.commitBlock_eq hcap]

end Place

theorem Inv.engineTurn_eq {s : State} (h : Inv s) (hbusy : s.engine = .busy) : engineTurn s = .next (advance s) := by
  obtain ⟨hcap, hplace⟩ := h.decodePlace hbusy
  exact hplace.engineTurn_eq hcap hbusy (h.rst_eq_false hbusy)

end Sys2Proof.Machine

/-! The invariant (R21 to R25, R30, R34, R36, R134, R220). It holds after reset and every step keeps it; and the cursor
stays within the input (R24, R202). -/

namespace Sys2Proof.Machine

/-! ### The arrays -/

/-- The arrays are canonical and list only cells that exist. -/
def MemoryOk (s : State) : Prop := Canonical s ∧ CellsExist s

theorem Inv.memoryOk {s : State} (h : Inv s) : MemoryOk s := by
  obtain ⟨hcanonical, hexist, _⟩ := h
  exact ⟨hcanonical, hexist⟩

section Memory

variable {s t : State}

theorem memoryOk_iff : MemoryOk s ↔
    (s.lastv.wf = true ∧ s.lastv.below 256) ∧ (s.col.wf = true ∧ s.col.below 256) ∧
    (s.blk.wf = true ∧ s.blk.below 8192) ∧
    (s.inBuf.wf = true ∧ ∀ c ∈ s.inBuf, capacityHolds s.config.inCap (c.1 + 1) = true) ∧
    (s.outBuf.wf = true ∧ ∀ c ∈ s.outBuf, capacityHolds s.config.outCap (c.1 + 1) = true) := by
  constructor
  · rintro ⟨hwf, hlastv, hcol, hblk, hin, hout⟩
    exact ⟨⟨hwf .lastv, hlastv⟩, ⟨hwf .col, hcol⟩, ⟨hwf .blk, hblk⟩, ⟨hwf .input, hin⟩, ⟨hwf .output, hout⟩⟩
  · rintro ⟨⟨wl, hlastv⟩, ⟨wc, hcol⟩, ⟨wb, hblk⟩, ⟨wi, hin⟩, ⟨wo, hout⟩⟩
    exact ⟨fun bank => by cases bank <;> assumption, hlastv, hcol, hblk, hin, hout⟩

/-- A cell listed after a write is the one written or was listed before. -/
theorem forall_mem_put {m : Memory} {P : Nat → Prop} {a : Nat} (v : Byte) (h : ∀ c ∈ m, P c.1) (ha : P a) :
    ∀ c ∈ m.put a v, P c.1 := by
  intro c hc
  rcases Memory.mem_put hc with rfl | hc
  · exact ha
  · exact h c hc

theorem MemoryOk.writeLastv (h : MemoryOk s) {a : Nat} (v : Byte) (ha : a < 256) : MemoryOk (s.writeLastv a v) := by
  rw [memoryOk_iff] at h ⊢
  obtain ⟨⟨wl, hlastv⟩, hrest⟩ := h
  exact ⟨⟨Memory.wf_put a v wl, Memory.below_put v hlastv ha⟩, hrest⟩

theorem MemoryOk.writeColRun (h : MemoryOk s) {a : Nat} {vs : List Byte} (ha : a + vs.length ≤ 256) :
    MemoryOk (s.writeColRun a vs) := by
  rw [memoryOk_iff] at h ⊢
  obtain ⟨hlastv, ⟨wc, hcol⟩, hrest⟩ := h
  exact ⟨hlastv, ⟨Memory.wf_putRun a vs wc, Memory.below_putRun hcol ha⟩, hrest⟩

theorem MemoryOk.writeCol (h : MemoryOk s) {a : Nat} (v : Byte) (ha : a < 256) : MemoryOk (s.writeCol a v) :=
  h.writeColRun (vs := [v]) ha

theorem MemoryOk.writeBlk (h : MemoryOk s) {a : Nat} (v : Byte) (ha : a < 8192) : MemoryOk (s.writeBlk a v) := by
  rw [memoryOk_iff] at h ⊢
  obtain ⟨hlastv, hcol, ⟨wb, hblk⟩, hrest⟩ := h
  exact ⟨hlastv, hcol, ⟨Memory.wf_put a v wb, Memory.below_put v hblk ha⟩, hrest⟩

theorem MemoryOk.writeIn (h : MemoryOk s) {a : Nat} (v : Byte) (ha : capacityHolds s.config.inCap (a + 1) = true) :
    MemoryOk (s.writeIn a v) := by
  rw [memoryOk_iff] at h ⊢
  obtain ⟨hlastv, hcol, hblk, ⟨wi, hin⟩, hout⟩ := h
  exact ⟨hlastv, hcol, hblk,
    ⟨Memory.wf_put a v wi, forall_mem_put (P := fun x => capacityHolds s.config.inCap (x + 1) = true) v hin ha⟩, hout⟩

theorem MemoryOk.takeException (h : MemoryOk s) (c : Cause) : MemoryOk (takeException c s) := by
  rw [memoryOk_iff] at h ⊢
  obtain ⟨hlastv, hcol, hblk, hin, _⟩ := h
  exact ⟨hlastv, hcol, hblk, hin, rfl, fun _ hc => absurd hc List.not_mem_nil⟩

/-- A commit lists bytes of LASTV below VSIZE and bytes of OUT below the end of the block. -/
theorem MemoryOk.committed (h : MemoryOk s) (hvsize : s.vsize.toNat ≤ 256)
    (hcap : capacityHolds s.config.outCap ((s.voff + s.bcount) * s.vsize.toNat) = true) : MemoryOk (committed s) := by
  rw [memoryOk_iff] at h ⊢
  obtain ⟨⟨wl, hlastv⟩, hcol, hblk, hin, ⟨wo, hout⟩⟩ := h
  refine ⟨⟨Memory.wf_putRun _ _ wl, Memory.below_putRun hlastv ?_⟩, hcol, hblk, hin, Memory.wf_putRun _ _ wo,
    fun c hc => ?_⟩
  · rw [State.blkRun_length]; omega
  · rcases Memory.mem_putRun hc with ⟨_, hlt⟩ | hc
    · rw [State.blkRun_length, ← Nat.add_mul] at hlt
      exact capacityHolds_of_le hcap hlt
    · exact hout c hc

theorem MemoryOk.endGroup (h : MemoryOk s) (a' : Nat) : MemoryOk (endGroup a' s) := by
  rcases endGroup_cases a' s with ⟨_, e⟩ | ⟨_, e⟩ <;> rw [e] <;> exact h

theorem MemoryOk.nextCode (h : MemoryOk s) (form : CodeForm) : MemoryOk (nextCode form s) := by
  rcases nextCode_cases form s with ⟨_, e⟩ | ⟨_, e⟩ <;> rw [e]
  · exact h
  · exact h.endGroup _

theorem memoryOk_of_unlisted (hl : s.lastv = []) (hc : s.col = []) (hb : s.blk = []) (hi : s.inBuf = [])
    (ho : s.outBuf = []) : MemoryOk s := by
  rw [memoryOk_iff, hl, hc, hb, hi, ho]
  simp [Memory.wf, Memory.below]

end Memory

/-! ### Building the invariant -/

section Build

variable {s t : State}

theorem inv_of_not_busy (hmem : MemoryOk t) (hstatus : StatusConsistent t) (hstate : t.engine ≠ .busy)
    (hcur : t.engine = .idle → t.cur = 0)
    (hrst : t.rst = true → t.engine = .idle ∧ t.vcount = 0#32 ∧ t.vsize = 0#32 ∧ t.inlen = 0#32)
    (hpos : t.pos = .quiet) : Inv t := by
  obtain ⟨hcanonical, hexist⟩ := hmem
  exact ⟨hcanonical, hexist, hstatus, hcur, hrst, fun _ => hpos, fun hbusy => absurd hbusy hstate⟩

theorem statusConsistent_of_no_cause (hstate : t.engine ≠ .error) (herr : t.err = .none) (hcause : t.cause = .none) :
    StatusConsistent t := by
  simp [StatusConsistent, hstate, herr, hcause, Cause.errClass]

theorem inv_of_busy (hmem : MemoryOk t) (hstatus : t.engine = .busy ∧ t.err = .none ∧ t.cause = .none)
    (hrst : t.rst = false) (hcap : t.capacitiesHold = true) (hplace : DecodePlace t) : Inv t := by
  obtain ⟨hcanonical, hexist⟩ := hmem
  obtain ⟨hbusy, herr, hcause⟩ := hstatus
  refine ⟨hcanonical, hexist, statusConsistent_of_no_cause (by simp [hbusy]) herr hcause, ?_, ?_, ?_, fun _ => ⟨hcap, hplace⟩⟩
  · simp [hbusy]
  · simp [hrst]
  · simp [hbusy]

theorem Inv.status_of_busy (h : Inv s) (hbusy : s.engine = .busy) : s.err = .none ∧ s.cause = .none := by
  have hcause := h.statusConsistent.cause_eq_none_of_busy hbusy
  exact ⟨by rw [h.statusConsistent.err_eq_errClass, hcause, Cause.errClass], hcause⟩

/-- A turn that stays in the decode keeps the invariant if it keeps the arrays and leads to a place of a decode. -/
theorem Inv.of_sameOutside (h : Inv s) (hbusy : s.engine = .busy) (hoperands : SameOperands s t)
    (hstatus : SameStatus s t) (hmem : MemoryOk t) (hplace : DecodePlace t) : Inv t := by
  obtain ⟨hvcount, hvsize, hinlen, hconfig, hrst, _⟩ := hoperands
  obtain ⟨hengine, herr, hcause⟩ := hstatus
  obtain ⟨herr', hcause'⟩ := h.status_of_busy hbusy
  obtain ⟨hcap, _⟩ := h.decodePlace hbusy
  refine inv_of_busy hmem ⟨hengine.trans hbusy, herr.trans herr', hcause.trans hcause'⟩
    (hrst.trans (h.rst_eq_false hbusy)) ?_ hplace
  rw [State.capacitiesHold, hvcount, hvsize, hinlen, hconfig]
  exact hcap

theorem Inv.takeException (h : Inv s) (hbusy : s.engine = .busy) {c : Cause} (hc : c ≠ .none) :
    Inv (takeException c s) := by
  refine inv_of_not_busy (h.memoryOk.takeException c) ⟨?_, rfl⟩ (by simp) (by simp) ?_ rfl
  · simp [errClass_eq_none_iff, hc]
  · simp [h.rst_eq_false hbusy]

theorem Inv.completeDecode (h : Inv s) (hbusy : s.engine = .busy) : Inv (completeDecode s) := by
  refine inv_of_not_busy h.memoryOk (statusConsistent_of_no_cause (by simp) rfl rfl) (by simp) (by simp) ?_ rfl
  simp [h.rst_eq_false hbusy]

end Build

/-! ### Places of a decode -/

section Places

variable {s : State}

theorem InBlock.bcount_bounds (h : InBlock s) :
    1 ≤ s.bcount ∧ s.bcount ≤ 256 ∧ s.bcount ≤ blockSize s.vsize.toNat ∧ s.voff + s.bcount ≤ s.vcount.toNat := by
  obtain ⟨hchecked, hbsize, hvoff, hcount, _, _⟩ := h
  obtain ⟨hmin, hmax⟩ := nextBlockCount_bounds hchecked hbsize hvoff
  rw [State.nextBlockCount] at hcount hmin hmax
  omega

/-- A column has a group for every sixteen vertices begun, so at most sixteen (R151). -/
theorem InBlock.groups (h : InBlock s) : s.n = 16 * (s.n / 16) ∧ s.bcount ≤ s.n ∧ s.n / 16 ≤ 16 := by
  obtain ⟨_, hmax, _, _⟩ := h.bcount_bounds
  obtain ⟨_, _, _, _, hn, _⟩ := h
  rw [roundUp, ceilDiv] at hn
  omega

theorem InColumn.col_lt (h : InColumn s) : 16 * s.g + 16 ≤ 256 := by
  obtain ⟨hblock, hg, _⟩ := h
  obtain ⟨_, _, hgroups⟩ := hblock.groups
  omega

/-- BLK holds every byte of the block (R23, R171). -/
theorem InBlock.blk_lt (h : InBlock s) {i : Nat} (hi : i < s.bcount) : i * s.vsize.toNat + s.k < 8192 := by
  obtain ⟨_, _, hcount, _⟩ := h.bcount_bounds
  obtain ⟨_, _, _, _, _, hk⟩ := h
  have hrow : (i + 1) * s.vsize.toNat ≤ blockSize s.vsize.toNat * s.vsize.toNat := Nat.mul_le_mul_right _ (by omega)
  have hfits := blockSize_mul_le s.vsize.toNat
  rw [Nat.add_mul] at hrow
  omega

theorem CodeForm.perByte_pos (form : CodeForm) : 0 < form.perByte := by cases form <;> decide

theorem decodePlace_packed (hpos : s.pos = .packed) (h : InPacked s) (hj : s.j % s.form.perByte = 0) : DecodePlace s := by
  simp only [DecodePlace, hpos]
  exact ⟨h, hj⟩

theorem decodePlace_code (hpos : s.pos = .code) (h : InPacked s) : DecodePlace s := by
  simp only [DecodePlace, hpos]
  exact h

/-- Where a group that passed its margin check may end, the next group or the delta pass may begin. -/
theorem decodePlace_endGroup {a' : Nat} (h : InColumn s) (hstart : s.cur ≤ a') (hend : a' + 8 ≤ s.inlen.toNat) :
    DecodePlace (endGroup a' s) := by
  obtain ⟨hblock, hg, hheader⟩ := h
  rcases endGroup_cases a' s with ⟨hmore, e⟩ | ⟨_, e⟩ <;> rw [e] <;> simp only [DecodePlace]
  · exact ⟨⟨hblock, hmore, hheader.trans hstart⟩, by omega⟩
  · exact ⟨hblock, hblock.bcount_bounds.1, hend⟩

/-- After a residual that leaves the overflow cursor at most one on. -/
theorem decodePlace_packedResidual (h : InPacked s) (v : Byte) {ov : Nat} (hstart : s.ov ≤ ov) (hov : ov ≤ s.ov + 1) :
    DecodePlace (packedResidual s.form v ov s) := by
  obtain ⟨⟨hcolumn, hmargin⟩, hj, hlow, hhigh⟩ := h
  have hpacked := s.form.packedBytes_le
  rcases nextCode_cases s.form { storeResidual v s with ov := ov } with ⟨hmore, e⟩ | ⟨_, e⟩ <;> rw [packedResidual, e]
  · have hin : InPacked { storeResidual v s with ov := ov, j := s.j + 1 } :=
      ⟨⟨hcolumn, hmargin⟩, hmore, hlow.trans hstart, by simp only [storeResidual_form, storeResidual_cur]; omega⟩
    by_cases hbyte : (s.j + 1) % s.form.perByte = 0
    · exact decodePlace_packed (if_pos hbyte) hin hbyte
    · exact decodePlace_code (if_neg hbyte) hin
  · exact decodePlace_endGroup (s := { storeResidual v s with ov := ov }) hcolumn
      (by simp only [storeResidual_cur]; omega) (by simp only [storeResidual_inlen]; omega)

/-- The snapshot's next byte, or the block loop at vertex 0 with the cursor behind the tag. -/
theorem decodePlace_snapshotByte (hpos : s.pos = .snapshot) (hchecked : OperandsChecked s) (hcur : s.cur = 1) (v : Byte) :
    DecodePlace (snapshotByte v s) := by
  rcases snapshotByte_cases v s with ⟨hmore, e⟩ | ⟨_, e⟩ <;> rw [e]
  · simp only [DecodePlace, writeLastv_pos, hpos]
    exact ⟨hchecked, hcur, hmore⟩
  · exact ⟨hchecked, rfl, Nat.zero_le _, .inl hcur⟩

/-- The delta pass goes on, or to the next column, or to the commit. -/
theorem decodePlace_deltaStep (hpos : s.pos = .residual) (hblock : InBlock s) (hend : s.cur + 8 ≤ s.inlen.toNat) (d : Byte) :
    DecodePlace (deltaStep d s) := by
  have ⟨hchecked, hbsize, hvoff, hcount, hn, _⟩ := hblock
  rcases deltaStep_cases d s with ⟨hmore, e⟩ | ⟨_, hmore, e⟩ | ⟨_, _, e⟩ <;> rw [e]
  · simp only [DecodePlace, writeBlk_pos, hpos]
    exact ⟨hblock, hmore, hend⟩
  · exact ⟨⟨hchecked, hbsize, hvoff, hcount, hn, hmore⟩, .inr hend⟩
  · exact ⟨hblock, hend⟩

end Places

/-! ### Every turn keeps the invariant -/

section Turn

variable {s : State} (h : Inv s) (hbusy : s.engine = .busy)
include h hbusy

theorem Inv.checkOperands : Inv (checkOperands s) := by
  rcases checkOperands_cases s with ⟨_, e⟩ | ⟨_, _, e⟩ | ⟨_, _, _, e⟩ | ⟨hchecked, e⟩ <;> rw [e]
  · exact h.takeException hbusy (by decide)
  · exact h.takeException hbusy (by decide)
  · exact h.takeException hbusy (by decide)
  · exact h.of_sameOutside hbusy ⟨rfl, rfl, rfl, rfl, rfl, rfl, rfl, rfl⟩ ⟨rfl, rfl, rfl⟩ h.memoryOk ⟨hchecked, rfl⟩

theorem Inv.enterBlock (hchecked : OperandsChecked s) (hbsize : s.bsize = blockSize s.vsize.toNat)
    (hstart : ColumnStart s) : Inv (enterBlock s) := by
  rcases enterBlock_cases s with ⟨_, e⟩ | ⟨_, _, e⟩ | ⟨hvoff, _, e⟩ <;> rw [e]
  · exact h.completeDecode hbusy
  · exact h.takeException hbusy (by decide)
  · have ⟨hmin, _⟩ := hchecked
    refine h.of_sameOutside hbusy ⟨rfl, rfl, rfl, rfl, rfl, rfl, rfl, rfl⟩ ⟨rfl, rfl, rfl⟩ h.memoryOk ?_
    exact ⟨⟨hchecked, hbsize, hvoff, rfl, rfl, by simp only; omega⟩, hstart⟩

/-- Column entry moves the cursor by at most four header bytes. -/
theorem Inv.enterColumn (hblock : InBlock s) (hstart : ColumnStart s) : Inv (enterColumn s) := by
  obtain ⟨hn, hcount, hgroups⟩ := hblock.groups
  obtain ⟨hmin, _⟩ := hblock.bcount_bounds
  have ⟨⟨_, _, _, hlen⟩, _⟩ := hblock
  have hheader : headerBytes (s.n / 16) ≤ 4 := by
    simp only [headerBytes, ceilDiv, Config.selPerHdr]; omega
  refine h.of_sameOutside hbusy ⟨rfl, rfl, rfl, rfl, rfl, rfl, rfl, rfl⟩ ⟨rfl, rfl, rfl⟩ h.memoryOk ?_
  refine ⟨⟨hblock, by simp only [enterColumn_g, enterColumn_n]; omega, le_rfl⟩, ?_⟩
  simp only [enterColumn_cur, enterColumn_inlen]
  rcases hstart with hcur | hcur <;> omega

/-- A run of sixteen residuals is stored, and the group ends where it stands. -/
theorem Inv.endGroup_writeColRun (hgroup : InGroup s) {vs : List Byte} (hlen : vs.length = 16) :
    Inv (endGroup s.cur (s.writeColRun (16 * s.g) vs)) := by
  have ⟨hcolumn, hmargin⟩ := hgroup
  have hmem : MemoryOk (s.writeColRun (16 * s.g) vs) := h.memoryOk.writeColRun (hlen ▸ hcolumn.col_lt)
  obtain ⟨⟨hoperands, hstatus, _⟩, _⟩ := endGroup_sameInGroup s.cur (s.writeColRun (16 * s.g) vs)
  refine h.of_sameOutside hbusy hoperands hstatus (hmem.endGroup _) ?_
  have hend : s.cur + 8 ≤ s.inlen.toNat := by omega
  exact decodePlace_endGroup (s := s.writeColRun (16 * s.g) vs) hcolumn le_rfl hend

/-- A group begins inside its margin of 32 bytes; `GRP.Z` ends where it stands. -/
theorem Inv.beginGroup (hgroup : InGroup s) (sel : BitVec 2) : Inv (beginGroup sel s) := by
  rcases selector_cases sel with rfl | ⟨form, rfl⟩ | rfl
  · exact h.endGroup_writeColRun hbusy hgroup List.length_replicate
  · rw [beginGroup_selector]
    refine h.of_sameOutside hbusy ⟨rfl, rfl, rfl, rfl, rfl, rfl, rfl, rfl⟩ ⟨rfl, rfl, rfl⟩ h.memoryOk ?_
    exact ⟨⟨hgroup, Nat.zero_lt_succ _, le_rfl, le_rfl⟩, Nat.zero_mod _⟩
  · refine h.of_sameOutside hbusy ⟨rfl, rfl, rfl, rfl, rfl, rfl, rfl, rfl⟩ ⟨rfl, rfl, rfl⟩ h.memoryOk ?_
    exact ⟨hgroup, Nat.zero_lt_succ _⟩

/-- A residual of a packed group is stored in the group's cells of COL. -/
theorem Inv.packedResidual (hpacked : InPacked s) (v : Byte) {ov : Nat} (hstart : s.ov ≤ ov) (hov : ov ≤ s.ov + 1) :
    Inv (packedResidual s.form v ov s) := by
  have ⟨⟨hcolumn, _⟩, hj, _⟩ := hpacked
  have hcol := hcolumn.col_lt
  obtain ⟨_, _, ⟨⟨hoperands, hstatus, _⟩, _⟩, _⟩ := packedResidual_spec s.form v ov s
  refine h.of_sameOutside hbusy hoperands hstatus ?_ (decodePlace_packedResidual hpacked v hstart hov)
  have hmem : MemoryOk (storeResidual v s) := h.memoryOk.writeCol (a := 16 * s.g + s.j) v (by omega)
  exact MemoryOk.nextCode (s := { storeResidual v s with ov := ov }) hmem _

theorem Inv.codeStep (hpacked : InPacked s) (c : Byte) : Inv (codeStep s.form c s) := by
  unfold Machine.codeStep
  split
  · exact h.of_sameOutside hbusy ⟨rfl, rfl, rfl, rfl, rfl, rfl, rfl, rfl⟩ ⟨rfl, rfl, rfl⟩ h.memoryOk hpacked
  · exact h.packedResidual hbusy hpacked c le_rfl (Nat.le_succ _)

theorem Inv.rawResidual (hpos : s.pos = .raw) (hgroup : InGroup s) (hj : s.j < 16) (v : Byte) :
    Inv (rawResidual v s) := by
  have ⟨hcolumn, hmargin⟩ := hgroup
  have hcol := hcolumn.col_lt
  have hmem : MemoryOk (storeResidual v s) := h.memoryOk.writeCol (a := 16 * s.g + s.j) v (by omega)
  obtain ⟨⟨hoperands, hstatus, _⟩, _⟩ := rawResidual_sameInGroup v s
  refine h.of_sameOutside hbusy hoperands hstatus ?_ ?_ <;>
    rcases rawResidual_cases v s with ⟨hmore, e⟩ | ⟨_, e⟩ <;> rw [e]
  · exact hmem
  · exact hmem.endGroup _
  · simp only [DecodePlace, storeResidual_pos, hpos]
    exact ⟨hgroup, hmore⟩
  · exact decodePlace_endGroup (s := storeResidual v s) hcolumn (Nat.le_add_right _ _)
      (by simp only [storeResidual_inlen]; omega)

theorem Inv.snapshotByte (hpos : s.pos = .snapshot) (hchecked : OperandsChecked s) (hcur : s.cur = 1)
    (hk : s.k < s.vsize.toNat) (v : Byte) : Inv (snapshotByte v s) := by
  have ⟨_, hmax, _⟩ := hchecked
  have hmem : MemoryOk (s.writeLastv s.k v) := h.memoryOk.writeLastv v (by omega)
  obtain ⟨⟨hoperands, hstatus, _⟩, _⟩ := snapshotByte_frame v s
  refine h.of_sameOutside hbusy hoperands hstatus ?_ (decodePlace_snapshotByte hpos hchecked hcur v)
  rcases snapshotByte_cases v s with ⟨_, e⟩ | ⟨_, e⟩ <;> rw [e] <;> exact hmem

theorem Inv.deltaStep (hpos : s.pos = .residual) (hblock : InBlock s) (hi : s.i < s.bcount)
    (hend : s.cur + 8 ≤ s.inlen.toNat) (d : Byte) : Inv (deltaStep d s) := by
  have hmem := h.memoryOk.writeBlk (d + s.p) (hblock.blk_lt hi)
  obtain ⟨_, ⟨hoperands, hstatus, _⟩, _⟩ := deltaStep_frame d s
  refine h.of_sameOutside hbusy hoperands hstatus ?_ (decodePlace_deltaStep hpos hblock hend d)
  rcases deltaStep_cases d s with ⟨_, e⟩ | ⟨_, _, e⟩ | ⟨_, _, e⟩ <;> rw [e] <;> exact hmem

theorem Inv.committed (hblock : InBlock s) (hend : s.cur + 8 ≤ s.inlen.toNat) : Inv (committed s) := by
  have ⟨hchecked, hbsize, _⟩ := hblock
  have ⟨_, hmax, _⟩ := hchecked
  obtain ⟨_, _, _, hvoff⟩ := hblock.bcount_bounds
  obtain ⟨hcap, _⟩ := h.decodePlace hbusy
  obtain ⟨hfits, _⟩ := commitBlock_next (hblock.commitBlock_eq hcap)
  exact h.of_sameOutside hbusy ⟨rfl, rfl, rfl, rfl, rfl, rfl, rfl, rfl⟩ ⟨rfl, rfl, rfl⟩ (h.memoryOk.committed hmax hfits)
    ⟨hchecked, hbsize, hvoff, .inr hend⟩

/-- Every turn of a decode keeps the invariant, by the place where the engine stands. -/
theorem Inv.advance : Inv (advance s) := by
  obtain ⟨_, hplace⟩ := h.decodePlace hbusy
  cases hpos : s.pos <;> simp only [DecodePlace, hpos] at hplace <;> simp only [Machine.advance, hpos]
  case operands => exact h.checkOperands hbusy
  case tag =>
    obtain ⟨hchecked, _⟩ := hplace
    have ⟨hmin, _⟩ := hchecked
    split
    · exact h.of_sameOutside hbusy ⟨rfl, rfl, rfl, rfl, rfl, rfl, rfl, rfl⟩ ⟨rfl, rfl, rfl⟩ h.memoryOk
        ⟨hchecked, rfl, Nat.lt_of_lt_of_le (Nat.zero_lt_succ 3) hmin⟩
    · exact h.takeException hbusy (by decide)
  case snapshot =>
    obtain ⟨hchecked, hcur, hk⟩ := hplace
    exact h.snapshotByte hbusy hpos hchecked hcur hk _
  case blockLoop =>
    obtain ⟨hchecked, hbsize, _, hstart⟩ := hplace
    exact h.enterBlock hbusy hchecked hbsize hstart
  case column =>
    obtain ⟨hblock, hstart⟩ := hplace
    exact h.enterColumn hbusy hblock hstart
  case group =>
    obtain ⟨hcolumn, _⟩ := hplace
    split
    · next hmargin =>
      exact h.of_sameOutside hbusy ⟨rfl, rfl, rfl, rfl, rfl, rfl, rfl, rfl⟩ ⟨rfl, rfl, rfl⟩ h.memoryOk
        (show InGroup s from ⟨hcolumn, (marginOk_iff s).mp hmargin⟩)
    · exact h.takeException hbusy (by decide)
  case selector sel => exact h.beginGroup hbusy hplace sel
  case packed =>
    obtain ⟨hpacked, _⟩ := hplace
    exact h.of_sameOutside hbusy ⟨rfl, rfl, rfl, rfl, rfl, rfl, rfl, rfl⟩ ⟨rfl, rfl, rfl⟩ h.memoryOk hpacked
  case code => exact h.codeStep hbusy hplace _
  case overflow => exact h.packedResidual hbusy hplace _ (Nat.le_succ _) le_rfl
  case raw =>
    obtain ⟨hgroup, hj⟩ := hplace
    exact h.rawResidual hbusy hpos hgroup hj _
  case residual =>
    obtain ⟨hblock, hi, hend⟩ := hplace
    exact h.deltaStep hbusy hpos hblock hi hend _
  case commit =>
    obtain ⟨hblock, hend⟩ := hplace
    exact h.committed hbusy hblock hend

end Turn

/-! ### Every step keeps the invariant -/

section Step

variable {s t : State}

/-- A turn of the engine that does nothing is a step too, with the host's list left as it is (R210). -/
theorem Inv.engineTurn (h : Inv s) (hturn : engineTurn s = .next t) : Inv t := by
  by_cases hbusy : s.engine = .busy
  · obtain rfl := Host.Outcome.next.inj ((h.engineTurn_eq hbusy).symm.trans hturn)
    exact h.advance hbusy
  · obtain rfl := Host.Outcome.next.inj ((engineTurn_of_rest (.inr hbusy)).symm.trans hturn)
    exact h

/-- Outside BUSY no decode is under way. -/
theorem Inv.pos_eq_quiet (h : Inv s) (hstate : s.engine ≠ .busy) : s.pos = .quiet := by
  obtain ⟨_, _, _, _, _, hquiet, _⟩ := h
  exact hquiet hstate

theorem Inv.beginDecode (h : Inv s) (hcap : s.capacitiesHold = true) (hrst : s.rst = false) : Inv (beginDecode s) :=
  inv_of_busy h.memoryOk ⟨rfl, rfl, rfl⟩ hrst hcap rfl

theorem Inv.returnToIdle (h : Inv s) (hover : s.engine = .done ∨ s.engine = .error) (hrst : s.rst = false) :
    Inv (returnToIdle s) := by
  refine inv_of_not_busy h.memoryOk (statusConsistent_of_no_cause (by simp) rfl rfl) (by simp) (fun _ => rfl) ?_ ?_
  · simp [hrst]
  · exact h.pos_eq_quiet (by rcases hover with h | h <;> simp [h])

/-- An operand register takes any value in IDLE out of reset. -/
theorem Inv.writeOperands (h : Inv s) (hidle : s.engine = .idle) (hrst : s.rst = false) (a b c : Word) :
    Inv { s with vcount := a, vsize := b, inlen := c } := by
  have ⟨_, _, hstatus, hcur, _⟩ := h
  exact inv_of_not_busy (t := { s with vcount := a, vsize := b, inlen := c }) h.memoryOk hstatus (by simp [hidle]) hcur
    (by simp [hrst]) (h.pos_eq_quiet (by simp [hidle]))

theorem Inv.writeIn (h : Inv s) (hstate : s.engine ≠ .busy) (hrst : s.rst = false) {a : Nat} (v : Byte)
    (ha : capacityHolds s.config.inCap (a + 1) = true) : Inv (s.writeIn a v) := by
  have ⟨_, _, hstatus, hcur, _⟩ := h
  exact inv_of_not_busy (h.memoryOk.writeIn v ha) hstatus hstate hcur (by simp [hrst]) (h.pos_eq_quiet hstate)

/-- Settles O57: after reset nothing is listed and no decode is under way. -/
theorem invariantAtReset : Obligations.InvariantAtReset :=
  inv_of_not_busy (memoryOk_of_unlisted rfl rfl rfl rfl rfl) (statusConsistent_of_no_cause (by decide) rfl rfl) (by decide)
    (fun _ => rfl)
    (fun _ => ⟨rfl, rfl, rfl, rfl⟩) rfl

theorem inv_resetState (s : State) : Inv (resetState s) :=
  inv_of_not_busy (t := resetState s) (memoryOk_of_unlisted rfl rfl rfl rfl rfl)
    (statusConsistent_of_no_cause (by simp [resetState, State.reset]) rfl rfl) (by simp [resetState, State.reset])
    (fun _ => rfl) (fun _ => ⟨rfl, rfl, rfl, rfl⟩) rfl

/-- Releasing the reset input leaves the reset state as it is. -/
theorem Inv.releaseReset (h : Inv s) : Inv { s with rst := false } := by
  obtain ⟨hcanonical, hexist, hstatus, hcur, _, hpos, hdecode⟩ := h
  exact ⟨hcanonical, hexist, hstatus, hcur, fun hrst => absurd hrst Bool.false_ne_true, hpos, hdecode⟩

theorem Inv.hostAccess {op : HostOp} (h : Inv s) (haccess : hostAccess op s = .next t) : Inv t := by
  rcases hostAccess_cases haccess with rfl | ⟨_, _, hrst, hexec⟩ | ⟨offset, v, hrst, rfl⟩ | ⟨_, _, rfl⟩ |
    ⟨a, v, hstate, hrst, hcap, rfl⟩ | ⟨_, rfl⟩ | ⟨level, _, rfl⟩ | hturn
  · exact h
  · rcases exec_command_cases hexec with rfl | ⟨_, hcap, rfl⟩ | ⟨hover, rfl⟩
    · exact h
    · exact h.beginDecode hcap hrst
    · exact h.returnToIdle hover hrst
  · rcases writeRegister_cases offset v s with e | ⟨hidle, a, b, c, e⟩ <;> rw [e]
    · exact h
    · exact h.writeOperands hidle hrst a b c
  · exact h
  · exact h.writeIn hstate hrst v hcap
  · exact h
  · cases level
    · exact h.releaseReset
    · exact inv_resetState s
  · exact h.engineTurn hturn

theorem Inv.step (h : Inv s) (hstep : step s = .next t) : Inv t := by
  rcases step_cases hstep with ⟨_, hturn⟩ | ⟨_, _, _, hturn⟩ | ⟨op, rest, _, haccess⟩
  · exact h.engineTurn hturn
  · exact h.engineTurn hturn
  · exact Inv.hostAccess (s := { s with pending := rest }) h haccess

/-- Settles O58: a step is a turn of the engine or an access of the host. -/
theorem invariantKept : Obligations.InvariantKept := fun _ _ => Inv.step

end Step

/-! ### The cursor (R24, R202) -/

section Cursor

variable {s t : State}

/-- While BUSY the cursor is within the input: before the tag at 0, then at 1, then at or below the last group's end. -/
theorem Inv.cur_le_inlen (h : Inv s) (hbusy : s.engine = .busy) : s.cur ≤ s.inlen.toNat := by
  obtain ⟨_, hplace⟩ := h.decodePlace hbusy
  have hstart (hchecked : OperandsChecked s) (hcolumn : ColumnStart s) : s.cur ≤ s.inlen.toNat := by
    obtain ⟨_, _, _, hlen⟩ := hchecked
    rcases hcolumn with hcur | hcur <;> omega
  have hgroup (hin : InGroup s) : s.cur ≤ s.inlen.toNat := le_of_add_le_left hin.2
  cases hpos : s.pos <;> simp only [DecodePlace, hpos] at hplace
  case operands => omega
  case tag => omega
  case snapshot =>
    obtain ⟨hchecked, hcur, _⟩ := hplace
    exact hstart hchecked (.inl hcur)
  case blockLoop =>
    obtain ⟨hchecked, _, _, hcolumn⟩ := hplace
    exact hstart hchecked hcolumn
  case column =>
    obtain ⟨⟨hchecked, _⟩, hcolumn⟩ := hplace
    exact hstart hchecked hcolumn
  case group => exact hplace.2
  case selector => exact hgroup hplace
  case packed => exact hgroup hplace.1.1
  case code | overflow => exact hgroup hplace.1
  case raw => exact hgroup hplace.1
  case residual | commit => omega

/-- The one turn that raises TAIL_MARGIN is a failed margin check. -/
theorem tailMargin_of_engineTurn (h : Inv s) (hbusy : s.engine = .busy) (hturn : engineTurn s = .next t)
    (hcause : t.cause = .tailMargin) : s.marginOk = false ∧ t = takeException .tailMargin s := by
  obtain ⟨_, hnone⟩ := h.status_of_busy hbusy
  have hsame {u : State} (hu : u.cause = s.cause) : u.cause ≠ .tailMargin := by rw [hu, hnone]; decide
  rcases engineTurn_cases hturn with ⟨_, rfl⟩ | ⟨_, _, ⟨_, rfl⟩ | ⟨_, rfl⟩ | ⟨_, rfl⟩ | ⟨_, hcommit⟩ | ⟨_, hmargin, ht⟩ |
    ⟨_, hrun⟩⟩
  · exact absurd hcause (hsame rfl)
  · rcases checkOperands_cases s with ⟨_, e⟩ | ⟨_, _, e⟩ | ⟨_, _, _, e⟩ | ⟨_, e⟩ <;> simp [e, hnone] at hcause
  · rcases enterBlock_cases s with ⟨_, e⟩ | ⟨_, _, e⟩ | ⟨_, _, e⟩ <;> simp [e, hnone] at hcause
  · exact absurd hcause (hsame rfl)
  · obtain ⟨_, rfl⟩ := commitBlock_next hcommit
    exact absurd hcause (hsame rfl)
  · exact ⟨hmargin, ht⟩
  · rcases runElement_outside hrun with ⟨_, ⟨_, _, hsameCause⟩, _⟩ | rfl
    · exact absurd hcause (hsame hsameCause)
    · simp at hcause

/-- Settles O60: the bound by place, and the margin check that failed. -/
theorem cursorWithinInput : Obligations.CursorWithinInput := by
  refine ⟨fun s => Inv.cur_le_inlen, fun s t h hbusy hturn hcause => ?_⟩
  have hcur := h.cur_le_inlen hbusy
  obtain ⟨hmargin, rfl⟩ := tailMargin_of_engineTurn h hbusy hturn hcause
  have hshort := (marginOk_eq_false_iff s).mp hmargin
  refine ⟨rfl, hcur, ?_⟩
  simp only [takeException_inlen, takeException_cur]
  omega

end Cursor

end Sys2Proof.Machine


/-! The decode as a function (40_group_decoder.md, 42_block_decoder.md, 43_stream_decoder.md): the values of a column in closed
form (R149), the length of a decode's result (R15, R177), and the group that an assembled line decodes to (R102). -/

namespace Sys2Proof.Machine

/-! ### The predictor chain (R149) -/

theorem length_deltaChain (p : Byte) (rs : List Byte) : (deltaChain p rs).length = rs.length := by
  induction rs generalizing p with
  | nil => rfl
  | cons r rs ih => rw [deltaChain, List.length_cons, List.length_cons, ih]

/-- A predictor that has taken one delta up counts for the predictor and the delta. -/
theorem ofNat_add_toNat (d p : Byte) (x : Nat) :
    BitVec.ofNat 8 ((d + p).toNat + x) = BitVec.ofNat 8 (p.toNat + (d.toNat + x)) := by
  apply BitVec.eq_of_toNat_eq
  rw [BitVec.toNat_ofNat, BitVec.toNat_ofNat, BitVec.toNat_add]
  omega

theorem deltaChain_getElem? (p : Byte) (rs : List Byte) {i : Nat} (hi : i < rs.length) :
    (deltaChain p rs)[i]? =
      some (BitVec.ofNat 8 (p.toNat + ((rs.take (i + 1)).map fun r => (unzigzag r).toNat).sum)) := by
  induction rs generalizing p i with
  | nil => cases hi
  | cons r rs ih =>
    rw [deltaChain]
    cases i with
    | zero =>
      have hvalue := ofNat_add_toNat (unzigzag r) p 0
      rw [Nat.add_zero, BitVec.ofNat_toNat, BitVec.setWidth_eq] at hvalue
      simp [hvalue]
    | succ i =>
      have hrest := ih (unzigzag r + p) (Nat.lt_of_succ_lt_succ hi)
      rw [List.getElem?_cons_succ, hrest, ofNat_add_toNat, List.take_succ_cons, List.map_cons, List.sum_cons]

/-- Settles O28: by induction over the residuals, with the predictor as it goes. -/
theorem predictorChainClosedForm : Obligations.PredictorChainClosedForm :=
  fun p rs => ⟨length_deltaChain p rs, fun _ hi => deltaChain_getElem? p rs hi⟩

/-! ### The decoder's sequence: a part that raises ends the whole -/

/-- The result of a decode whose next part depends on the value of this one. -/
def Decoded.bind {α β : Type} (d : Decoded α) (f : α → Decoded β) : Decoded β :=
  match d with
  | .value a => f a
  | .raised cause cur => .raised cause cur

/-- The result of a decode, with its value rearranged. -/
def Decoded.map {α β : Type} (f : α → β) (d : Decoded α) : Decoded β :=
  match d with
  | .value a => .value (f a)
  | .raised cause cur => .raised cause cur

theorem Decoded.bind_eq_value_iff {α β : Type} {d : Decoded α} {f : α → Decoded β} {b : β} :
    d.bind f = .value b ↔ ∃ a, d = .value a ∧ f a = .value b := by
  cases d <;> simp [Decoded.bind]

theorem Decoded.map_eq_value_iff {α β : Type} {d : Decoded α} {f : α → β} {b : β} :
    d.map f = .value b ↔ ∃ a, d = .value a ∧ f a = b := by
  cases d <;> simp [Decoded.map]

section Sequence

variable (order : CodeOrder) (rd : Nat → Byte) (inlen : Nat)

theorem decodeGroups_zero (hdr g cur : Nat) : decodeGroups order rd inlen hdr 0 g cur = .value ([], cur) := rfl

/-- A group with fewer than 32 bytes from its start on raises TAIL_MARGIN (R134). -/
theorem decodeGroups_succ_of_short (hdr count g : Nat) {cur : Nat} (h : ¬ cur + 32 ≤ inlen) :
    decodeGroups order rd inlen hdr (count + 1) g cur = .raised .tailMargin cur := by
  rw [decodeGroups, if_pos (by simp only [Config.tailMargin]; omega)]

/-- A group, then the groups after it (R133). -/
theorem decodeGroups_succ (hdr count g : Nat) {cur : Nat} (h : cur + 32 ≤ inlen) :
    decodeGroups order rd inlen hdr (count + 1) g cur =
      (decodeGroups order rd inlen hdr count (g + 1) (decodeGroup order rd cur (selectorAt rd hdr g)).2).map
        fun q => ((decodeGroup order rd cur (selectorAt rd hdr g)).1 ++ q.1, q.2) := by
  rw [decodeGroups, if_neg (by simp only [Config.tailMargin]; omega)]
  dsimp only
  cases decodeGroups order rd inlen hdr count (g + 1) (decodeGroup order rd cur (selectorAt rd hdr g)).2 <;> rfl

/-- A column and its delta pass, then the columns after it (R152). -/
theorem decodeColumns_cons (bcount : Nat) (p : Byte) (ps : List Byte) (cur : Nat) :
    decodeColumns order rd inlen bcount (p :: ps) cur =
      (decodeColumn order rd inlen cur (roundUp bcount 16)).bind fun c =>
        (decodeColumns order rd inlen bcount ps c.2).map fun q => (deltaChain p (c.1.take bcount) :: q.1, q.2) := by
  rw [decodeColumns]
  cases decodeColumn order rd inlen cur (roundUp bcount 16) with
  | raised cause a => rfl
  | value c =>
    dsimp only [Decoded.bind]
    cases decodeColumns order rd inlen bcount ps c.2 <;> rfl

/-- A block with a count in range is its columns, transposed; its last row is the next LASTV (R152 to R157). -/
theorem decodeBlock_eq {bcount : Nat} (hmin : 1 ≤ bcount) (hmax : bcount ≤ 256) (lastv : List Byte) (cur : Nat) :
    decodeBlock order rd inlen bcount lastv cur =
      (decodeColumns order rd inlen bcount lastv cur).map fun q =>
        (rowMajor q.1 lastv.length bcount, (List.range lastv.length).map (fun k => columnByte q.1 (bcount - 1) k), q.2) := by
  rw [decodeBlock, if_neg (by simp only [Config.blockMax]; omega)]
  cases decodeColumns order rd inlen bcount lastv cur <;> rfl

theorem decodeBlocks_of_none_left (bsize fuel : Nat) (lastv : List Byte) (cur : Nat) :
    decodeBlocks order rd inlen bsize fuel 0 lastv cur = .value ([], cur) := by
  cases fuel <;> rfl

/-- A block, then the blocks after it (R172). -/
theorem decodeBlocks_succ (bsize fuel : Nat) {remaining : Nat} (h : remaining ≠ 0) (lastv : List Byte) (cur : Nat) :
    decodeBlocks order rd inlen bsize (fuel + 1) remaining lastv cur =
      (decodeBlock order rd inlen (min bsize remaining) lastv cur).bind fun b =>
        (decodeBlocks order rd inlen bsize fuel (remaining - min bsize remaining) b.2.1 b.2.2).map
          fun q => (b.1 ++ q.1, q.2) := by
  rw [decodeBlocks, if_neg h]
  cases decodeBlock order rd inlen (min bsize remaining) lastv cur with
  | raised cause a => rfl
  | value b =>
    dsimp only [Decoded.bind]
    cases decodeBlocks order rd inlen bsize fuel (remaining - min bsize remaining) b.2.1 b.2.2 <;> rfl

end Sequence

/-! ### The length of a decode (R15, R177) -/

section Length

variable {order : CodeOrder} {rd : Nat → Byte} {inlen : Nat}

/-- The length of a block's bytes and of its next LASTV. -/
theorem decodeBlock_lengths {bcount : Nat} (hmin : 1 ≤ bcount) (hmax : bcount ≤ 256) {lastv : List Byte} {cur : Nat}
    {b : List Byte × List Byte × Nat} (h : decodeBlock order rd inlen bcount lastv cur = .value b) :
    b.1.length = bcount * lastv.length ∧ b.2.1.length = lastv.length := by
  rw [decodeBlock_eq order rd inlen hmin hmax, Decoded.map_eq_value_iff] at h
  obtain ⟨q, _, rfl⟩ := h
  simp [rowMajor]

/-- The block loop that yields a value has gone over every vertex that was left. -/
theorem length_decodeBlocks {bsize : Nat} (hmin : 1 ≤ bsize) (hmax : bsize ≤ 256) {fuel remaining : Nat}
    (hfuel : remaining ≤ fuel) {lastv : List Byte} {cur : Nat} {q : List Byte × Nat}
    (h : decodeBlocks order rd inlen bsize fuel remaining lastv cur = .value q) :
    q.1.length = remaining * lastv.length := by
  induction fuel generalizing remaining lastv cur q with
  | zero =>
    obtain rfl := Nat.le_zero.mp hfuel
    cases h
    rw [Nat.zero_mul, List.length_nil]
  | succ fuel ih =>
    by_cases hleft : remaining = 0
    · subst hleft
      cases h
      rw [Nat.zero_mul, List.length_nil]
    · simp only [decodeBlocks_succ order rd inlen bsize fuel hleft, Decoded.bind_eq_value_iff,
        Decoded.map_eq_value_iff] at h
      obtain ⟨b, hblock, rest, hrest, rfl⟩ := h
      obtain ⟨hbytes, hlastv⟩ := decodeBlock_lengths (by omega) (by omega) hblock
      have hlen := ih (by omega) hrest
      rw [List.length_append, hbytes, hlen, hlastv, ← Nat.add_mul, Nat.add_sub_cancel' (Nat.min_le_right _ _)]

end Length

/-- A decode that yields a value has passed the checks and is its block loop. -/
theorem decodeStream_value {order : CodeOrder} {vcount vsize inlen : Nat} {rd : Nat → Byte} {q : List Byte × Nat}
    (h : decodeStream order vcount vsize inlen rd = .value q) :
    1 ≤ vsize ∧ vsize ≤ 256 ∧ decodeBlocks order rd inlen (blockSize vsize) vcount vcount
      ((List.range vsize).map fun k => rd (inlen - vsize + k)) 1 = .value q := by
  by_cases hrange : vsize = 0 ∨ 257 ≤ vsize
  · rw [decodeStream_of_vsize_outside order vcount hrange] at h
    cases h
  · have hmin : 1 ≤ vsize := by omega
    have hmax : vsize ≤ 256 := by omega
    rw [decodeStream_of_vsize_inside order vcount hmin hmax] at h
    split at h
    · cases h
    · split at h
      · cases h
      · split at h
        · cases h
        · exact ⟨hmin, hmax, h⟩

/-- Settles O37: the block loop yields VSIZE bytes for every vertex. -/
theorem decodedLength : Obligations.DecodedLength := by
  intro order vcount vsize inlen rd bytes cur h
  obtain ⟨hmin, hmax, hblocks⟩ := decodeStream_value h
  have hbsize := le_blockSize hmin hmax
  rw [length_decodeBlocks (by omega) (blockSize_le vsize) le_rfl hblocks, List.length_map, List.length_range]

/-! ### Assembled groups (R102)

The code of every item comes back from the packed bytes, and the overflow bytes stand in the order of the escapes. -/

/-- The packed bytes of a line's items (R88, R89). -/
def CodeForm.pack (form : CodeForm) (order : CodeOrder) : List CodeItem → List Byte :=
  match form with
  | .b2 => packCodes2 order
  | .b4 => packCodes4 order

/-- The code of an item, zero-extended (R93). -/
def CodeForm.itemCode (form : CodeForm) (item : CodeItem) : Byte :=
  match form with
  | .b2 => item.code2.setWidth 8
  | .b4 => item.code4.setWidth 8

/-- The literals below the escape of each form (R115). -/
def CodeForm.escapeCodeValue : CodeForm → Nat
  | .b2 => 3
  | .b4 => 15

theorem codeAt_b2_packCodes2 (order : CodeOrder) (a b c d : CodeItem) (rest : List CodeItem) :
    ∃ v, packCodes2 order (a :: b :: c :: d :: rest) = v :: packCodes2 order rest ∧
      code2 order v 0 = a.code2 ∧ code2 order v 1 = b.code2 ∧ code2 order v 2 = c.code2 ∧ code2 order v 3 = d.code2 := by
  cases order with
  | msbFirst => exact ⟨_, rfl, code2_msbFirst_packedByte2 ..⟩
  | lsbFirst => exact ⟨_, rfl, code2_lsbFirst_packedByte2 ..⟩

theorem codeAt_b4_packCodes4 (order : CodeOrder) (a b : CodeItem) (rest : List CodeItem) :
    ∃ v, packCodes4 order (a :: b :: rest) = v :: packCodes4 order rest ∧
      code4 order v 0 = a.code4 ∧ code4 order v 1 = b.code4 := by
  cases order with
  | msbFirst => exact ⟨_, rfl, code4_msbFirst_packedByte4 ..⟩
  | lsbFirst => exact ⟨_, rfl, code4_lsbFirst_packedByte4 ..⟩

/-- The first packed byte holds the codes of the first items, in the order of their places. -/
theorem CodeForm.pack_append (form : CodeForm) (order : CodeOrder) {chunk : List CodeItem}
    (hchunk : chunk.length = form.perByte) (rest : List CodeItem) :
    ∃ v, form.pack order (chunk ++ rest) = v :: form.pack order rest ∧
      ∀ i (hi : i < chunk.length), form.codeAt order v i = form.itemCode chunk[i] := by
  cases form with
  | b2 =>
    match chunk, hchunk with
    | [a, b, c, d], _ =>
      obtain ⟨v, hpack, h0, h1, h2, h3⟩ := codeAt_b2_packCodes2 order a b c d rest
      refine ⟨v, hpack, fun i hi => congrArg (BitVec.setWidth 8) ?_⟩
      match i, hi with
      | 0, _ => exact h0
      | 1, _ => exact h1
      | 2, _ => exact h2
      | 3, _ => exact h3
  | b4 =>
    match chunk, hchunk with
    | [a, b], _ =>
      obtain ⟨v, hpack, h0, h1⟩ := codeAt_b4_packCodes4 order a b rest
      refine ⟨v, hpack, fun i hi => congrArg (BitVec.setWidth 8) ?_⟩
      match i, hi with
      | 0, _ => exact h0
      | 1, _ => exact h1

/-- Whole bytes of items: as many packed bytes, and in them every item's code at its place. -/
theorem CodeForm.codeAt_pack (form : CodeForm) (order : CodeOrder) (m : Nat) {items : List CodeItem}
    (hlen : items.length = form.perByte * m) :
    (form.pack order items).length = m ∧ ∀ j (hj : j < items.length),
      form.codeAt order ((form.pack order items).getD (j / form.perByte) 0#8) (j % form.perByte) =
        form.itemCode items[j] := by
  have hpos := form.perByte_pos
  induction m generalizing items with
  | zero =>
    obtain rfl : items = [] := List.length_eq_zero_iff.mp hlen
    exact ⟨by cases form <;> rfl, fun j hj => absurd hj (Nat.not_lt_zero j)⟩
  | succ m ih =>
    rw [Nat.mul_succ] at hlen
    have hchunk : (items.take form.perByte).length = form.perByte := by rw [List.length_take]; omega
    obtain ⟨v, hpack, hcodes⟩ := form.pack_append order hchunk (items.drop form.perByte)
    obtain ⟨hrest, ih⟩ := ih (items := items.drop form.perByte) (by rw [List.length_drop]; omega)
    rw [List.take_append_drop] at hpack
    rw [hpack]
    refine ⟨by rw [List.length_cons, hrest], fun j hj => ?_⟩
    by_cases hfirst : j < form.perByte
    · rw [Nat.div_eq_of_lt hfirst, Nat.mod_eq_of_lt hfirst, List.getD_cons_zero, hcodes j (by omega), List.getElem_take]
    · obtain ⟨i, rfl⟩ := Nat.exists_eq_add_of_le (Nat.le_of_not_lt hfirst)
      rw [Nat.add_div_left _ hpos, Nat.add_mod_left, List.getD_cons_succ, ih i (by rw [List.length_drop]; omega),
        List.getElem_drop]

/-- The code of a literal in range is its value and is no escape. -/
theorem CodeForm.itemCode_lit (form : CodeForm) {v : BitVec 4} (h : v.toNat < form.escapeCodeValue) :
    form.itemCode (.lit v) = v.setWidth 8 ∧ form.escapes (form.itemCode (.lit v)) = false := by
  revert v
  cases form <;> decide

theorem CodeForm.itemCode_esc (form : CodeForm) (v : Byte) : form.escapes (form.itemCode (.esc v)) = true := by
  cases form <;> rfl

theorem overflowBytes_append (xs ys : List CodeItem) : overflowBytes (xs ++ ys) = overflowBytes xs ++ overflowBytes ys := by
  induction xs with
  | nil => rfl
  | cons x xs ih => cases x <;> simp [overflowBytes, ih]

section Assembled

variable {form : CodeForm} {order : CodeOrder} {rd : Nat → Byte} {a : Nat} {items : List CodeItem}
  (hlen : items.length = 16) (hlit : ∀ v, CodeItem.lit v ∈ items → v.toNat < form.escapeCodeValue)
  (hread : ∀ x (h : x < (form.pack order items ++ overflowBytes items).length),
    rd (a + x) = (form.pack order items ++ overflowBytes items)[x])
include hlen hread

omit hread in
theorem length_pack_sixteen : (form.pack order items).length = form.packedBytes := by
  refine (form.codeAt_pack order form.packedBytes ?_).1
  rw [hlen]
  cases form <;> rfl

/-- Code `j` of the group is the code of item `j`. -/
theorem codeOf_assembled {j : Nat} (hj : j < items.length) : codeOf form order rd a j = form.itemCode items[j] := by
  have hpack := length_pack_sixteen (form := form) (order := order) hlen
  have hplace : j / form.perByte < (form.pack order items).length := hpack ▸ form.div_perByte_lt (hlen ▸ hj)
  obtain ⟨_, hcode⟩ := form.codeAt_pack order form.packedBytes (items := items) (by rw [hlen]; cases form <;> rfl)
  rw [codeOf, hread _ (by rw [List.length_append]; omega), List.getElem_append_left hplace, ← hcode j hj,
    List.getD_eq_getElem _ _ hplace]

include hlit

/-- The escapes before code `j` are the overflow bytes of the items before it. -/
theorem escapesBefore_assembled {j : Nat} (hj : j ≤ items.length) :
    escapesBefore form order rd a j = (overflowBytes (items.take j)).length := by
  induction j with
  | zero => rfl
  | succ j ih =>
    have ih := ih (Nat.le_of_succ_le hj)
    have hcode := codeOf_assembled hlen hread hj
    rw [List.take_succ_eq_append_getElem hj, overflowBytes_append, List.length_append, ← ih]
    cases hitem : items[j] with
    | lit v =>
      obtain ⟨_, hliteral⟩ := form.itemCode_lit (hlit v (hitem ▸ List.getElem_mem hj))
      exact escapesBefore_succ_of_literal form order rd a (by rw [hcode, hitem, hliteral]; exact Bool.false_ne_true)
    | esc v => exact escapesBefore_succ_of_escape form order rd a (by rw [hcode, hitem, form.itemCode_esc])

/-- Residual `j` is what item `j` stands for. -/
theorem residualOf_assembled {j : Nat} (hj : j < items.length) :
    residualOf form order rd a j = items[j].residual := by
  have hcode := codeOf_assembled hlen hread hj
  cases hitem : items[j] with
  | lit v =>
    obtain ⟨hvalue, hliteral⟩ := form.itemCode_lit (hlit v (hitem ▸ List.getElem_mem hj))
    rw [residualOf, hcode, hitem, hliteral, if_neg Bool.false_ne_true, hvalue, CodeItem.residual]
  | esc v =>
    have hsplit : overflowBytes items = overflowBytes (items.take j) ++ v :: overflowBytes (items.drop (j + 1)) := by
      have hitems := List.take_append_drop j items
      rw [List.drop_eq_getElem_cons hj, hitem] at hitems
      have hbytes := congrArg overflowBytes hitems.symm
      rwa [overflowBytes_append, overflowBytes] at hbytes
    have hpack := length_pack_sixteen (form := form) (order := order) hlen
    have hescapes := escapesBefore_assembled hlen hlit hread hj.le
    rw [residualOf, hcode, hitem, form.itemCode_esc, if_pos rfl, Nat.add_assoc, hescapes, hread _ (by simp [hsplit, hpack]),
      List.getElem_append_right (by omega)]
    simp [hsplit, hpack, CodeItem.residual]

theorem decodeGroup_assembled :
    decodeGroup order rd a form.selector =
      (items.map CodeItem.residual, a + (form.pack order items ++ overflowBytes items).length) := by
  have hescapes := escapesBefore_assembled hlen hlit hread le_rfl
  rw [List.take_length, hlen] at hescapes
  have hresiduals : (List.range 16).map (residualOf form order rd a) = items.map CodeItem.residual := by
    refine List.ext_getElem (by simp [hlen]) fun j _ hj => ?_
    rw [List.length_map] at hj
    rw [List.getElem_map, List.getElem_map, List.getElem_range, residualOf_assembled hlen hlit hread hj]
  rw [decodeGroup_selector, hresiduals, hescapes, List.length_append, length_pack_sixteen hlen, Nat.add_assoc]

end Assembled

/-- Settles O19: the line's bytes are the packed bytes and then the overflow bytes, for either form. -/
theorem assembledGroupDecodes : Obligations.AssembledGroupDecodes := by
  intro form order rd a items bytes hlen hlit hread
  cases form with
  | b2 => exact decodeGroup_assembled (form := .b2) hlen hlit hread
  | b4 => exact decodeGroup_assembled (form := .b4) hlen hlit hread

end Sys2Proof.Machine


/-! Runs of the engine (R15, R180). Steps compose; a live decode goes on by `advance`; and a rank that every turn of a decode
lowers shows that every decode ends. -/

namespace Sys2Proof.Machine

/-! ### Steps compose -/

section Reaches

variable {s t u : State}

theorem Reaches.refl (s : State) : Reaches s s := ⟨0, rfl⟩

theorem Reaches.head (h : step s = .next t) (hrest : Reaches t u) : Reaches s u := by
  obtain ⟨count, hrun⟩ := hrest
  have hstep : core.step s = .next t := h
  exact ⟨count + 1, by simp only [Host.Core.run, hstep, hrun]⟩

theorem Reaches.single (h : step s = .next t) : Reaches s t := Reaches.head h (Reaches.refl t)

theorem run_trans {count : Nat} (h : core.run count s = .next t) (hrest : Reaches t u) : Reaches s u := by
  induction count generalizing s with
  | zero =>
    obtain rfl : s = t := Host.Outcome.next.inj h
    exact hrest
  | succ count ih =>
    simp only [Host.Core.run] at h
    split at h
    · next hstep => exact Reaches.head hstep (ih h)
    · cases h
    · cases h

theorem Reaches.trans (h : Reaches s t) (hrest : Reaches t u) : Reaches s u := by
  obtain ⟨_, hrun⟩ := h
  exact run_trans hrun hrest

end Reaches

/-! ### Live decodes -/

/-- A decode under way, with the invariant and no host access to come. -/
def Live (s : State) : Prop := Inv s ∧ Running s

section Live

variable {s t u : State}

theorem SameInput.trans (h : SameInput s t) (h' : SameInput t u) : SameInput s u := by
  obtain ⟨hoperands, hcells⟩ := h
  obtain ⟨hoperands', hcells'⟩ := h'
  exact ⟨hoperands.trans hoperands', hcells.trans hcells'⟩

theorem Live.busy (h : Live s) : s.engine = .busy := h.2.1

theorem Live.place (h : Live s) : DecodePlace s := by
  obtain ⟨hinv, hbusy, _⟩ := h
  exact (hinv.decodePlace hbusy).2

theorem Live.step_eq (h : Live s) : step s = .next (advance s) := by
  obtain ⟨hinv, hrun⟩ := h
  have ⟨hbusy, _⟩ := hrun
  rw [step_running hrun, hinv.engineTurn_eq hbusy]

theorem Live.advance_sameInput (h : Live s) : SameInput s (advance s) := by
  obtain ⟨hinv, hbusy, _⟩ := h
  exact engineTurn_sameInput (hinv.engineTurn_eq hbusy)

theorem Live.advance_live (h : Live s) (hbusy : (advance s).engine = .busy) : Live (advance s) := by
  obtain ⟨⟨_, _, _, _, hrst, hpending, _⟩, _⟩ := h.advance_sameInput
  obtain ⟨hinv, hstate, hrst', hpending'⟩ := h
  exact ⟨hinv.advance hstate, hbusy, hrst.trans hrst', hpending.trans hpending'⟩

/-- Some number of steps leads from `s` to `t`, over the same input, and the decode is still under way there. -/
def Runs (s t : State) : Prop := Reaches s t ∧ SameInput s t ∧ Live t

theorem Runs.reaches (h : Runs s t) : Reaches s t := h.1

theorem Runs.sameInput (h : Runs s t) : SameInput s t := h.2.1

theorem Runs.live (h : Runs s t) : Live t := h.2.2

theorem Runs.refl (h : Live s) : Runs s s := ⟨Reaches.refl s, (SameOutside.refl s).sameInput, h⟩

theorem Runs.trans (h : Runs s t) (hrest : Runs t u) : Runs s u :=
  ⟨h.reaches.trans hrest.reaches, h.sameInput.trans hrest.sameInput, hrest.live⟩

/-- One turn that leads to a state of the same decode. -/
theorem Live.runs (h : Live s) (e : advance s = t) (hbusy : t.engine = .busy) : Runs s t := by
  subst e
  exact ⟨Reaches.single h.step_eq, h.advance_sameInput, h.advance_live hbusy⟩

/-- One turn, whatever it leads to. -/
theorem Live.reaches (h : Live s) (e : advance s = t) : Reaches s t := by
  subst e
  exact Reaches.single h.step_eq

end Live

/-! ### Every decode ends -/

/-- The blocks, the columns, the parts of a column, and the elements of a part that are still to come. -/
abbrev Rank := ℕ ×ₗ ℕ ×ₗ ℕ ×ₗ ℕ ×ₗ ℕ

/-- The rank of a place, blocks first. A block still to begin has one column more to come than it has; a group has at most
three elements to come for every residual. -/
def mkRank (blocks columns part groups elements : Nat) : Rank :=
  toLex (blocks, toLex (columns, toLex (part, toLex (groups, elements))))

/-- What is still to come at the place where the engine stands. Places before the block loop come before every block. -/
def rank (s : State) : Rank :=
  let blocks := s.vcount.toNat - s.voff
  let columns := s.vsize.toNat - s.k
  let groups := s.n / 16 - s.g
  match s.pos with
  | .quiet => mkRank 0 0 0 0 0
  | .operands => mkRank (s.vcount.toNat + 3) 0 0 0 0
  | .tag => mkRank (s.vcount.toNat + 2) 0 0 0 0
  | .snapshot => mkRank (s.vcount.toNat + 1) columns 0 0 0
  | .blockLoop => mkRank blocks (s.vsize.toNat + 1) 0 0 0
  | .column => mkRank blocks columns 2 0 0
  | .group => mkRank blocks columns 1 groups 50
  | .selector _ => mkRank blocks columns 1 groups 49
  | .packed => mkRank blocks columns 1 groups (3 * (16 - s.j))
  | .code => mkRank blocks columns 1 groups (3 * (16 - s.j) - 1)
  | .overflow => mkRank blocks columns 1 groups (3 * (16 - s.j) - 2)
  | .raw => mkRank blocks columns 1 groups (16 - s.j)
  | .residual => mkRank blocks columns 0 (s.bcount - s.i) 0
  | .commit => mkRank blocks 0 0 0 0

theorem mkRank_lt_iff {a b c d e a' b' c' d' e' : Nat} :
    mkRank a b c d e < mkRank a' b' c' d' e' ↔
      a < a' ∨ a = a' ∧ (b < b' ∨ b = b' ∧ (c < c' ∨ c = c' ∧ (d < d' ∨ d = d' ∧ e < e'))) := by
  simp only [mkRank, Prod.Lex.toLex_lt_toLex]

section Descent

variable {s : State}

theorem rank_endGroup (a' : Nat) (e : Nat) :
    rank (endGroup a' s) <
      mkRank (s.vcount.toNat - s.voff) (s.vsize.toNat - s.k) 1 (s.n / 16 - s.g) e := by
  rcases endGroup_cases a' s with ⟨hmore, h⟩ | ⟨_, h⟩ <;> rw [h] <;> simp only [rank, mkRank_lt_iff, true_and] <;> omega

theorem rank_nextCode (form : CodeForm) (hj : s.j < 16) {e : Nat} (he : 3 * (16 - s.j) - 3 < e) :
    rank (nextCode form s) <
      mkRank (s.vcount.toNat - s.voff) (s.vsize.toNat - s.k) 1 (s.n / 16 - s.g) e := by
  rcases nextCode_cases form s with ⟨hmore, h⟩ | ⟨_, h⟩ <;> rw [h]
  · by_cases hbyte : (s.j + 1) % form.perByte = 0
    · simp only [rank, if_pos hbyte, mkRank_lt_iff, true_and]; omega
    · simp only [rank, if_neg hbyte, mkRank_lt_iff, true_and]; omega
  · exact rank_endGroup _ e

theorem rank_beginGroup (sel : BitVec 2) :
    rank (beginGroup sel s) < mkRank (s.vcount.toNat - s.voff) (s.vsize.toNat - s.k) 1 (s.n / 16 - s.g) 49 := by
  rcases selector_cases sel with rfl | ⟨form, rfl⟩ | rfl
  · rw [beginGroup_zero]
    exact rank_endGroup (s := s.writeColRun _ _) _ _
  · rw [beginGroup_selector]
    simp only [rank, beginPacked, mkRank_lt_iff, true_and]; omega
  · simp only [beginGroup_raw, rank, mkRank_lt_iff, true_and]; omega

/-- Every turn that stays in the decode lowers the rank. -/
theorem Live.rank_advance_lt (h : Live s) (hstays : (advance s).engine = .busy) : rank (advance s) < rank s := by
  have hplace := h.place
  cases hpos : s.pos <;> simp only [DecodePlace, hpos] at hplace <;> simp only [advance, hpos] at hstays ⊢ <;>
    rw [rank.eq_def s, hpos] <;> dsimp only
  case operands =>
    rcases checkOperands_cases s with ⟨_, e⟩ | ⟨_, _, e⟩ | ⟨_, _, _, e⟩ | ⟨_, e⟩ <;> simp [e] at hstays ⊢
    simp only [rank, mkRank_lt_iff, true_and]; omega
  case tag =>
    split
    · simp only [rank, mkRank_lt_iff, true_and]; omega
    · next htag => simp [htag] at hstays
  case snapshot =>
    obtain ⟨_, _, hk⟩ := hplace
    rcases snapshotByte_cases (s.cell .input (s.inlen.toNat - s.vsize.toNat + s.k)) s with ⟨hmore, e⟩ | ⟨_, e⟩ <;> rw [e]
    · simp only [rank, writeLastv_pos, hpos, mkRank_lt_iff, true_and, writeLastv_vcount, writeLastv_vsize]; omega
    · simp only [rank, mkRank_lt_iff, true_and, writeLastv_vcount]; omega
  case blockLoop =>
    rcases enterBlock_cases s with ⟨_, e⟩ | ⟨_, _, e⟩ | ⟨_, _, e⟩ <;> simp [e] at hstays ⊢
    simp only [rank, mkRank_lt_iff, true_and]; omega
  case column => simp only [rank, enterColumn, mkRank_lt_iff, true_and]; omega
  case group =>
    split
    · simp only [rank, mkRank_lt_iff, true_and]; omega
    · next hmargin => simp [hmargin] at hstays
  case selector sel => exact rank_beginGroup sel
  case packed =>
    obtain ⟨⟨_, hj, _⟩, _⟩ := hplace
    simp only [rank, latchPacked, mkRank_lt_iff, true_and]; omega
  case code =>
    obtain ⟨_, hj, _⟩ := hplace
    rw [codeStep]
    split
    · simp only [rank, escapeCode, mkRank_lt_iff, true_and]; omega
    · exact rank_nextCode (s := storeResidual _ s) _ hj (by simp only [storeResidual_j]; omega)
  case overflow =>
    obtain ⟨_, hj, _⟩ := hplace
    exact rank_nextCode (s := { storeResidual _ s with ov := s.ov + 1 }) _ hj (by simp only [storeResidual_j]; omega)
  case raw =>
    obtain ⟨_, hj⟩ := hplace
    rcases rawResidual_cases (s.cell .input (s.cur + s.j)) s with ⟨hmore, e⟩ | ⟨_, e⟩ <;> rw [e]
    · simp only [rank, storeResidual_pos, hpos, mkRank_lt_iff, true_and, storeResidual_vcount, storeResidual_voff,
        storeResidual_vsize, storeResidual_k, storeResidual_n, storeResidual_g]
      omega
    · exact rank_endGroup (s := storeResidual _ s) _ _
  case residual =>
    obtain ⟨⟨_, _, _, _, _, hk⟩, hi, _⟩ := hplace
    rcases deltaStep_cases (unzigzag (s.cell .col s.i)) s with ⟨hmore, e⟩ | ⟨_, hmore, e⟩ | ⟨_, _, e⟩ <;> rw [e]
    · simp only [rank, writeBlk_pos, hpos, mkRank_lt_iff, true_and, writeBlk_vcount, writeBlk_voff, writeBlk_vsize,
        writeBlk_k, writeBlk_bcount]
      omega
    · simp only [rank, mkRank_lt_iff, true_and, writeBlk_vcount, writeBlk_voff, writeBlk_vsize]; omega
    · simp only [rank, mkRank_lt_iff, true_and, writeBlk_vcount, writeBlk_voff]; omega
  case commit =>
    obtain ⟨hblock, _⟩ := hplace
    obtain ⟨hmin, _⟩ := hblock.bcount_bounds
    obtain ⟨_, _, hvoff, _⟩ := hblock
    simp only [rank, committed, mkRank_lt_iff, true_and]; omega

end Descent

/-- A turn of a decode leaves it only for DONE or ERROR. -/
theorem Live.advance_over {s : State} (h : Live s) (hleaves : (advance s).engine ≠ .busy) :
    (advance s).engine = .done ∨ (advance s).engine = .error := by
  obtain ⟨hinv, hbusy, _⟩ := h
  rcases engineTurn_status (hinv.engineTurn_eq hbusy) with ⟨hsame, _⟩ | ⟨_, ⟨c, e⟩ | e⟩
  · exact absurd (hsame.trans hbusy) hleaves
  · exact .inr (by rw [e]; rfl)
  · exact .inl (by rw [e]; rfl)

theorem Live.ends {s : State} (h : Live s) : ∃ t, Reaches s t ∧ (t.engine = .done ∨ t.engine = .error) := by
  by_cases hstays : (advance s).engine = .busy
  · obtain ⟨t, hreaches, hover⟩ := (h.advance_live hstays).ends
    exact ⟨t, Reaches.head h.step_eq hreaches, hover⟩
  · exact ⟨advance s, h.reaches rfl, h.advance_over hstays⟩
termination_by rank s
decreasing_by exact h.rank_advance_lt hstays

/-- Settles O40: the rank cannot fall for ever. -/
theorem everyDecodeEnds : Obligations.EveryDecodeEnds := fun _ hinv hrun => Live.ends ⟨hinv, hrun⟩

end Sys2Proof.Machine


/-! The engine against `DecodeGroup` and `DecodeColumn` (R110 to R114, R130, R133). A packed or raw group runs residual by
residual, each state written out; groups compose to a column. -/

namespace Sys2Proof.Machine

/-! ### Runs of stores -/

/-- One more byte at the end of a run. -/
theorem putRun_concat (m : Memory) (a : Nat) (vs : List Byte) (v : Byte) :
    m.putRun a (vs ++ [v]) = (m.putRun a vs).put (a + vs.length) v := by
  induction vs generalizing m a with
  | nil => rfl
  | cons w ws ih => rw [List.cons_append, Memory.putRun, Memory.putRun, ih, List.length_cons, Nat.add_right_comm, Nat.add_assoc]

/-- Storing residual `j` of the group after the first `j`. -/
theorem putRun_range_succ (m : Memory) (a : Nat) (f : Nat → Byte) (j : Nat) :
    (m.putRun a ((List.range j).map f)).put (a + j) (f j) = m.putRun a ((List.range (j + 1)).map f) := by
  rw [List.range_succ, List.map_append, List.map_singleton, putRun_concat, List.length_map, List.length_range]

/-! ### What a group leaves -/

/-- The group of `s` is decoded in `t`: sixteen residuals `r.1` in COL, the cursor at `r.2`, then the next group or the delta
pass (R133). -/
def GroupDone (s : State) (r : List Byte × Nat) (t : State) : Prop :=
  (∀ x, x < 16 → some (t.cell .col (16 * s.g + x)) = r.1[x]?) ∧
  SameCellsOutside .col (16 * s.g) 16 s t ∧ SameInGroup s t ∧ t.cur = r.2 ∧
  (s.g + 1 < s.n / 16 → t.g = s.g + 1 ∧ t.pos = .group) ∧
  (¬ s.g + 1 < s.n / 16 → t.g = s.g ∧ t.pos = .residual ∧ t.i = 0 ∧ t.p = s.cell .lastv s.k)

/-- The end of a group after its sixteen residuals were stored. -/
theorem groupDone_endGroup {s u : State} {vs : List Byte} (hlen : vs.length = 16)
    (hcol : u.bank .col = (s.bank .col).putRun (16 * s.g) vs) (hepoch : u.resetEpoch = s.resetEpoch)
    (hsame : SameInGroup s u) (hg : u.g = s.g) (a' : Nat) : GroupDone s (vs, a') (endGroup a' u) := by
  have hkeep := endGroup_sameCells_col a' u
  obtain ⟨hcur, _, hmore, hlast⟩ := endGroup_afterGroup a' u
  have ⟨_, ⟨_, _, _, hn, _⟩, hk, hlastv, _⟩ := hsame
  rw [hg, hn] at hmore hlast
  refine ⟨fun x hx => ?_, fun x hx => ?_, hsame.trans (endGroup_sameInGroup a' u), hcur, fun h => ?_, fun h => ?_⟩
  · have hx : x < vs.length := hlen ▸ hx
    rw [hkeep, cell_of_putRun_inside hcol hx, List.getElem?_eq_getElem hx]
  · rw [hkeep, sameCellsOutside_of_putRun hcol (by funext a; simp only [State.unlisted, hepoch]) x (hlen.symm ▸ hx)]
  · obtain ⟨hg', hpos, _⟩ := hmore h
    exact ⟨hg', hpos⟩
  · obtain ⟨hg', hpos, hi, hp⟩ := hlast h
    exact ⟨hg', hpos, hi, by rw [hp, hk, hlastv]⟩

/-! ### Raw groups (R114) -/

/-- Raw byte `j` of a group is next: the first `j` are stored. -/
def atRaw (s : State) (j : Nat) : State :=
  { s with
    j := j
    pos := .raw
    col := s.col.putRun (16 * s.g) ((List.range j).map fun x => s.cell .input (s.cur + x)) }

theorem atRaw_zero (s : State) : atRaw s 0 = beginGroup 3#2 s := rfl

theorem atRaw_col (s : State) (j : Nat) : (atRaw s j).bank .col =
    (s.bank .col).putRun (16 * s.g) ((List.range j).map fun x => s.cell .input (s.cur + x)) := rfl

theorem atRaw_sameInGroup (s : State) (j : Nat) : SameInGroup s (atRaw s j) := by
  apply sameInGroup_of_eqs <;> simp [atRaw]

/-- The state after raw byte `j`. -/
theorem advance_atRaw (s : State) (j : Nat) :
    advance (atRaw s j) =
      if j + 1 < 16 then atRaw s (j + 1) else endGroup (s.cur + 16) { atRaw s (j + 1) with j := j } := by
  have hstore : storeResidual (s.cell .input (s.cur + j)) (atRaw s j) = { atRaw s (j + 1) with j := j } := by
    unfold storeResidual State.writeCol atRaw
    simp only [← putRun_range_succ s.col (16 * s.g) (fun x => s.cell .input (s.cur + x)) j]
  have hadvance : advance (atRaw s j) = rawResidual (s.cell .input (s.cur + j)) (atRaw s j) := rfl
  rw [hadvance, rawResidual, hstore]
  rfl

theorem endRaw_engine (s : State) (m j : Nat) : (endGroup (s.cur + 16) { atRaw s m with j := j }).engine = s.engine :=
  (endGroup_sameStatus (s.cur + 16) { atRaw s m with j := j }).1

/-- From raw byte `j` the engine reaches the end of the group. -/
theorem runs_atRaw {s : State} {j : Nat} (hj : j < 16) (h : Live (atRaw s j)) :
    Runs (atRaw s j) (endGroup (s.cur + 16) { atRaw s 16 with j := 15 }) := by
  have hbusy : s.engine = .busy := h.busy
  have hadvance := advance_atRaw s j
  by_cases hmore : j + 1 < 16
  · rw [if_pos hmore] at hadvance
    have hnext := h.runs hadvance hbusy
    exact hnext.trans (runs_atRaw hmore hnext.live)
  · have hlast : j + 1 = 16 := by omega
    rw [if_neg hmore, hlast] at hadvance
    obtain rfl : j = 15 := by omega
    exact h.runs hadvance ((endRaw_engine s 16 15).trans hbusy)
termination_by 16 - j

/-! ### Packed groups (R112, R113, R115, R116) -/

section Packed

variable (form : CodeForm) (s : State)

/-- Residual `j` of the group at the cursor, in closed form (R116). -/
def State.packedResidualAt (j : Nat) : Byte := residualOf form s.config.codeOrder (s.cell .input) s.cur j

/-- The overflow cursor when the first `j` codes are done. -/
def State.overflowAt (j : Nat) : Nat :=
  s.cur + form.packedBytes + escapesBefore form s.config.codeOrder (s.cell .input) s.cur j

/-- Code `j` of the group at the cursor. -/
def State.codeAtCursor (j : Nat) : Byte := codeOf form s.config.codeOrder (s.cell .input) s.cur j

/-- The first `j` residuals of a packed group are stored, and the engine stands at `pos` with `packed` latched. -/
def atPacked (j : Nat) (packed : Byte) (pos : Pos) : State :=
  { s with
    form := form
    j := j
    ov := s.overflowAt form j
    packed := packed
    pos := pos
    col := s.col.putRun (16 * s.g) ((List.range j).map (s.packedResidualAt form)) }

/-- After residual `j`: the next code, the next packed byte, or the end of the group. -/
def afterPacked (j : Nat) (packed : Byte) : State :=
  nextCode form { atPacked form s (j + 1) packed .code with j := j }

theorem atPacked_sameInGroup (j : Nat) (packed : Byte) (pos : Pos) : SameInGroup s (atPacked form s j packed pos) := by
  apply sameInGroup_of_eqs <;> simp [atPacked]

theorem atPacked_col (j : Nat) (packed : Byte) (pos : Pos) : (atPacked form s j packed pos).bank .col =
    (s.bank .col).putRun (16 * s.g) ((List.range j).map (s.packedResidualAt form)) := rfl

theorem beginPacked_eq_atPacked : beginPacked form s = atPacked form s 0 s.packed .packed := rfl

/-- The place is the next one's to choose. -/
theorem nextCode_of_pos (t : State) (pos : Pos) : nextCode form { t with pos := pos } = nextCode form t := rfl

/-- Where the value is residual `j` and the overflow cursor is the one after it, the engine is past residual `j`. -/
theorem packedResidual_atPacked {j : Nat} {packed v : Byte} {pos : Pos} {ov : Nat} (hv : v = s.packedResidualAt form j)
    (hov : ov = s.overflowAt form (j + 1)) :
    packedResidual form v ov (atPacked form s j packed pos) = afterPacked form s j packed := by
  subst hv hov
  have hstore : { storeResidual (s.packedResidualAt form j) (atPacked form s j packed pos) with
      ov := s.overflowAt form (j + 1) } = { atPacked form s (j + 1) packed .code with j := j, pos := pos } := by
    unfold storeResidual State.writeCol atPacked
    simp only [← putRun_range_succ s.col (16 * s.g) (s.packedResidualAt form) j]
  rw [packedResidual, hstore, afterPacked, nextCode_of_pos form { atPacked form s (j + 1) packed .code with j := j }]

variable {form s}

/-- At a code that is a literal, the value is the code and no overflow byte is taken. -/
theorem advance_literal {j : Nat} {packed : Byte}
    (hcode : form.codeAt s.config.codeOrder packed (j % form.perByte) = s.codeAtCursor form j)
    (h : ¬ form.escapes (s.codeAtCursor form j) = true) :
    advance (atPacked form s j packed .code) = afterPacked form s j packed := by
  have hadvance : advance (atPacked form s j packed .code) =
      codeStep form (form.codeAt s.config.codeOrder packed (j % form.perByte)) (atPacked form s j packed .code) := rfl
  rw [hadvance, hcode, codeStep, if_neg h, literalCode_eq]
  refine packedResidual_atPacked form s (if_neg h).symm ?_
  rw [State.overflowAt, escapesBefore_succ_of_literal form _ _ _ h]
  rfl

/-- At a code that is an escape, the overflow byte is next. -/
theorem advance_escape {j : Nat} {packed : Byte}
    (hcode : form.codeAt s.config.codeOrder packed (j % form.perByte) = s.codeAtCursor form j)
    (h : form.escapes (s.codeAtCursor form j) = true) :
    advance (atPacked form s j packed .code) = atPacked form s j packed .overflow := by
  have hadvance : advance (atPacked form s j packed .code) =
      codeStep form (form.codeAt s.config.codeOrder packed (j % form.perByte)) (atPacked form s j packed .code) := rfl
  rw [hadvance, hcode, codeStep, if_pos h]
  rfl

/-- The overflow byte of an escape is its residual. -/
theorem advance_overflow {j : Nat} {packed : Byte} (h : form.escapes (s.codeAtCursor form j) = true) :
    advance (atPacked form s j packed .overflow) = afterPacked form s j packed := by
  have hadvance : advance (atPacked form s j packed .overflow) =
      packedResidual form (s.cell .input (s.overflowAt form j)) (s.overflowAt form j + 1)
        (atPacked form s j packed .overflow) := rfl
  rw [hadvance]
  refine packedResidual_atPacked form s (if_pos h).symm ?_
  rw [State.overflowAt, State.overflowAt, escapesBefore_succ_of_escape form _ _ _ h]
  rfl

theorem afterPacked_engine (j : Nat) (packed : Byte) : (afterPacked form s j packed).engine = s.engine :=
  (nextCode_sameStatus form { atPacked form s (j + 1) packed .code with j := j }).1

/-- From code `j`, with its packed byte latched, the engine gets past residual `j`. -/
theorem runs_code {j : Nat} {packed : Byte} (h : Live (atPacked form s j packed .code))
    (hpacked : packed = s.cell .input (s.cur + j / form.perByte)) :
    Runs (atPacked form s j packed .code) (afterPacked form s j packed) := by
  have hbusy : s.engine = .busy := h.busy
  have hcode : form.codeAt s.config.codeOrder packed (j % form.perByte) = s.codeAtCursor form j := by rw [hpacked]; rfl
  by_cases hescape : form.escapes (s.codeAtCursor form j) = true
  · have hoverflow := h.runs (advance_escape hcode hescape) hbusy
    exact hoverflow.trans (hoverflow.live.runs (advance_overflow hescape) ((afterPacked_engine j packed).trans hbusy))
  · exact h.runs (advance_literal hcode hescape) ((afterPacked_engine j packed).trans hbusy)

/-- The place before residual `j`: its packed byte where one begins, else its code. -/
def placeOf (form : CodeForm) (j : Nat) : Pos := if j % form.perByte = 0 then .packed else .code

theorem afterPacked_of_more {j : Nat} (packed : Byte) (h : j + 1 < 16) :
    afterPacked form s j packed = atPacked form s (j + 1) packed (placeOf form (j + 1)) := if_pos h

theorem afterPacked_last (packed : Byte) :
    afterPacked form s 15 packed =
      endGroup (s.overflowAt form 16) { atPacked form s 16 packed .code with j := 15 } := rfl

/-- From the place before residual `j` the engine gets past it, with its packed byte latched. -/
theorem runs_residual {j : Nat} {packed : Byte} (h : Live (atPacked form s j packed (placeOf form j)))
    (hpacked : j % form.perByte ≠ 0 → packed = s.cell .input (s.cur + j / form.perByte)) :
    Runs (atPacked form s j packed (placeOf form j))
      (afterPacked form s j (s.cell .input (s.cur + j / form.perByte))) := by
  have hbusy : s.engine = .busy := h.busy
  by_cases hbyte : j % form.perByte = 0
  · have hplace : placeOf form j = .packed := if_pos hbyte
    rw [hplace] at h ⊢
    have hadvance : advance (atPacked form s j packed .packed) =
        atPacked form s j (s.cell .input (s.cur + j / form.perByte)) .code := rfl
    have hlatch := h.runs hadvance hbusy
    exact hlatch.trans (runs_code hlatch.live rfl)
  · have hplace : placeOf form j = .code := if_neg hbyte
    rw [hplace] at h ⊢
    rw [← hpacked hbyte]
    exact runs_code h (hpacked hbyte)

/-- Where no packed byte begins, the code is in the same one as the code before. -/
theorem succ_div_perByte {j : Nat} (h : (j + 1) % form.perByte ≠ 0) : (j + 1) / form.perByte = j / form.perByte :=
  Nat.succ_div_of_not_dvd fun hdvd => h (Nat.mod_eq_zero_of_dvd hdvd)

/-- From the place before residual `j` the engine reaches the end of the group. -/
theorem runs_atPacked {j : Nat} {packed : Byte} (hj : j < 16) (h : Live (atPacked form s j packed (placeOf form j)))
    (hpacked : j % form.perByte ≠ 0 → packed = s.cell .input (s.cur + j / form.perByte)) :
    ∃ last, Runs (atPacked form s j packed (placeOf form j))
      (endGroup (s.overflowAt form 16) { atPacked form s 16 last .code with j := 15 }) := by
  have hresidual := runs_residual h hpacked
  by_cases hmore : j + 1 < 16
  · rw [afterPacked_of_more _ hmore] at hresidual
    obtain ⟨last, hrest⟩ := runs_atPacked hmore hresidual.live fun hbyte => by rw [succ_div_perByte hbyte]
    exact ⟨last, hresidual.trans hrest⟩
  · obtain rfl : j = 15 := by omega
    rw [afterPacked_last] at hresidual
    exact ⟨_, hresidual⟩
termination_by 16 - j

end Packed

/-! ### A group (R110) -/

/-- `DecodeGroup` of a packed group at the cursor. -/
theorem decodeGroup_at_cursor (form : CodeForm) (s : State) :
    decodeGroup s.config.codeOrder (s.cell .input) s.cur form.selector =
      ((List.range 16).map (s.packedResidualAt form), s.overflowAt form 16) :=
  decodeGroup_selector form s.config.codeOrder (s.cell .input) s.cur

/-- The end of a packed group with all its residuals stored. -/
theorem groupDone_atPacked {form : CodeForm} {s : State} {m : Nat} (hm : m = 16) (last : Byte) (j : Nat) :
    GroupDone s ((List.range m).map (s.packedResidualAt form), s.overflowAt form m)
      (endGroup (s.overflowAt form m) { atPacked form s m last .code with j := j }) :=
  groupDone_endGroup (u := { atPacked form s m last .code with j := j }) (by simp [hm]) (atPacked_col form s m last .code)
    rfl (atPacked_sameInGroup form s m last .code) rfl _

/-- The end of a raw group with all its bytes stored. -/
theorem groupDone_atRaw {s : State} {m : Nat} (hm : m = 16) (j : Nat) :
    GroupDone s ((List.range m).map fun x => s.cell .input (s.cur + x), s.cur + m)
      (endGroup (s.cur + m) { atRaw s m with j := j }) :=
  groupDone_endGroup (u := { atRaw s m with j := j }) (by simp [hm]) (atRaw_col s m) rfl (atRaw_sameInGroup s m) rfl _

/-- A group whose residuals are stored at once, and which ends where it stands. -/
theorem runs_storedGroup {s : State} {vs : List Byte} (h : Live s) (hlen : vs.length = 16)
    (e : advance s = endGroup s.cur (s.writeColRun (16 * s.g) vs)) : ∃ t, Runs s t ∧ GroupDone s (vs, s.cur) t := by
  have hsame : SameInGroup s (s.writeColRun (16 * s.g) vs) := by
    apply sameInGroup_of_eqs <;> simp [State.writeColRun]
  obtain ⟨hengine, _⟩ := endGroup_sameStatus s.cur (s.writeColRun (16 * s.g) vs)
  exact ⟨_, h.runs e (hengine.trans h.busy), groupDone_endGroup (u := s.writeColRun (16 * s.g) vs) hlen rfl rfl hsame rfl _⟩

/-- From a selector the engine decodes the group as `DecodeGroup` does. -/
theorem runs_group {s : State} {sel : BitVec 2} (h : Live s) (hpos : s.pos = .selector sel) :
    ∃ t, Runs s t ∧ GroupDone s (decodeGroup s.config.codeOrder (s.cell .input) s.cur sel) t := by
  have hbusy := h.busy
  have hadvance : advance s = beginGroup sel s := by simp only [advance, hpos]
  rcases selector_cases sel with rfl | ⟨form, rfl⟩ | rfl
  · rw [beginGroup_zero] at hadvance
    rw [decodeGroup_zero]
    exact runs_storedGroup h List.length_replicate hadvance
  · rw [beginGroup_selector, beginPacked_eq_atPacked] at hadvance
    have hbegin := h.runs hadvance hbusy
    obtain ⟨last, hrest⟩ := runs_atPacked (form := form) (j := 0) (by decide) hbegin.live
      fun hne => absurd (Nat.zero_mod _) hne
    refine ⟨_, hbegin.trans hrest, ?_⟩
    rw [decodeGroup_at_cursor]
    exact groupDone_atPacked rfl last 15
  · rw [← atRaw_zero] at hadvance
    have hbegin := h.runs hadvance hbusy
    refine ⟨_, hbegin.trans (runs_atRaw (by decide) hbegin.live), ?_⟩
    rw [decodeGroup_raw]
    exact groupDone_atRaw rfl 15

/-- Settles O20: the run of a group, from its first residual to its end. -/
theorem engineDecodesGroup : Obligations.EngineDecodesGroup := by
  intro s sel hinv hrun hpos
  obtain ⟨t, ⟨hreaches, _, _, hrun'⟩, hdone⟩ := runs_group ⟨hinv, hrun⟩ hpos
  exact ⟨t, hreaches, hrun', hdone⟩

end Sys2Proof.Machine


/-! A decode of the engine against its part of the reference decoder: what the engine reaches for a value, and for a cause
raised (R202). -/

namespace Sys2Proof.Machine

/-- From `s` the engine takes the exception `c` with the cursor at `a`, over the same input (R201, R202). -/
def Fails (s : State) (c : Cause) (a : Nat) : Prop :=
  ∃ t, Reaches s t ∧ SameInput s t ∧ t.engine = .error ∧ t.err = c.errClass ∧ t.cause = c ∧ t.cur = a

/-- From `s` the engine does what the reference decoder ends in: for a value it reaches a state of the decode that `P`
relates to it, for a cause it takes the exception. -/
def Meets {α : Type} (s : State) (P : α → State → Prop) (d : Decoded α) : Prop :=
  match d with
  | .value a => ∃ t, Runs s t ∧ P a t
  | .raised cause a => Fails s cause a

section Meets

variable {α β : Type} {s t : State} {P : α → State → Prop} {Q : β → State → Prop} {d : Decoded α}

theorem Fails.of_runs {c : Cause} {a : Nat} (h : Runs s t) (hrest : Fails t c a) : Fails s c a := by
  obtain ⟨u, hreaches, hsame, herror⟩ := hrest
  exact ⟨u, h.reaches.trans hreaches, h.sameInput.trans hsame, herror⟩

theorem Live.fails {c : Cause} (h : Live s) (e : advance s = takeException c s) : Fails s c s.cur :=
  ⟨_, h.reaches e, takeException_sameInput c s, rfl, rfl, rfl, rfl⟩

theorem Meets.value {a : α} (h : Runs s t) (hP : P a t) : Meets s P (.value a) := ⟨t, h, hP⟩

/-- What holds from a state that the engine reaches holds from where it came. -/
theorem Meets.of_runs {P' : α → State → Prop} (h : Runs s t) (hrest : Meets t P d) (hP : ∀ a u, P a u → P' a u) :
    Meets s P' d := by
  cases d with
  | value a =>
    obtain ⟨u, hruns, hPu⟩ := hrest
    exact ⟨u, h.trans hruns, hP a u hPu⟩
  | raised c a => exact Fails.of_runs h hrest

theorem Meets.map {f : α → β} (h : Meets s P d) (hQ : ∀ a t, P a t → Q (f a) t) : Meets s Q (d.map f) := by
  cases d with
  | value a =>
    obtain ⟨t, hruns, hPt⟩ := h
    exact ⟨t, hruns, hQ a t hPt⟩
  | raised c a => exact h

/-- One part after the other: the second is met from where the first leads. -/
theorem Meets.bind {f : α → Decoded β} (h : Meets s P d) (hf : ∀ a t, Runs s t → P a t → Meets s Q (f a)) :
    Meets s Q (d.bind f) := by
  cases d with
  | value a =>
    obtain ⟨t, hruns, hPt⟩ := h
    exact hf a t hruns hPt
  | raised c a => exact h

end Meets

/-! ### What a run reads -/

section Read

variable {s t : State}

theorem SameCells.cell_eq {bank : Bank} (h : SameCells bank s t) : t.cell bank = s.cell bank := funext h

/-- The reference decoder of the input is the same along a run. -/
theorem SameInput.reads (h : SameInput s t) :
    t.config.codeOrder = s.config.codeOrder ∧ t.cell .input = s.cell .input ∧ t.inlen = s.inlen ∧ t.vsize = s.vsize ∧
    t.vcount = s.vcount := by
  obtain ⟨⟨hvcount, hvsize, hinlen, hconfig, _⟩, hcells⟩ := h
  exact ⟨by rw [hconfig], hcells.cell_eq, hinlen, hvsize, hvcount⟩

end Read

/-! ### Groups of a column (R133) -/

/-- The groups from `s.g` on are decoded in `t`, `count` of them, and the delta pass is next. -/
def GroupsDone (s : State) (count : Nat) (q : List Byte × Nat) (t : State) : Prop :=
  q.1.length = 16 * count ∧ (∀ x, x < 16 * count → some (t.cell .col (16 * s.g + x)) = q.1[x]?) ∧ SameInGroup s t ∧
  t.pos = .residual ∧ t.cur = q.2 ∧ t.i = 0 ∧ t.p = s.cell .lastv s.k ∧
  SameCellsOutside .col (16 * s.g) (16 * count) s t

theorem groupsDone_none {t : State} (hpos : t.pos = .residual) (hi : t.i = 0) (hp : t.p = t.cell .lastv t.k) :
    GroupsDone t 0 ([], t.cur) t :=
  ⟨rfl, fun x hx => absurd hx (Nat.not_lt_zero x), by apply sameInGroup_of_eqs <;> simp, hpos, rfl, hi, hp, fun _ _ => rfl⟩

/-- One group, then `count` groups from the next place of COL on. -/
theorem groupsDone_succ {s t u : State} {count : Nat} {r q : List Byte × Nat} (hlen : r.1.length = 16)
    (hgroup : GroupDone s r t) (hstart : 0 < count → t.g = s.g + 1) (hrest : GroupsDone t count q u) :
    GroupsDone s (count + 1) (r.1 ++ q.1, q.2) u := by
  obtain ⟨hfirst, hother, hsame, _⟩ := hgroup
  obtain ⟨hqlen, hcol, hsame', hpos, hcur, hi, hp, hother'⟩ := hrest
  have ⟨_, _, hk, hlastv, _⟩ := hsame
  have hkeep (x : Nat) (hx : x < 16 * s.g + 16 ∨ 16 * s.g + 16 * (count + 1) ≤ x) : u.cell .col x = t.cell .col x := by
    rcases Nat.eq_zero_or_pos count with hzero | hpositive
    · exact hother' x (by omega)
    · have hg := hstart hpositive
      exact hother' x (by omega)
  refine ⟨by rw [List.length_append, hlen, hqlen]; omega, fun x hx => ?_, hsame.trans hsame', hpos, hcur, hi,
    by rw [hp, hk, hlastv], fun x hx => by rw [hkeep x (by omega), hother x (by omega)]⟩
  by_cases hgroup : x < 16
  · rw [hkeep _ (by omega), hfirst x hgroup, List.getElem?_append_left (by omega)]
  · have hg := hstart (by omega)
    obtain ⟨y, rfl⟩ := Nat.exists_eq_add_of_le (Nat.le_of_not_lt hgroup)
    have hcell := hcol y (by omega)
    rw [List.getElem?_append_right (by omega), hlen, Nat.add_sub_cancel_left, ← hcell, hg]
    congr 2
    omega

/-- After a passed margin check the engine reads the header byte and decodes the group it selects. -/
theorem runs_headerAndGroup {s : State} (h : Live s) (hpos : s.pos = .group) (hmargin : s.marginOk = true) :
    ∃ t, Runs s t ∧ GroupDone s
      (decodeGroup s.config.codeOrder (s.cell .input) s.cur (selectorAt (s.cell .input) s.hdr s.g)) t := by
  have hheader : Runs s { s with pos := .selector (selectorAt (s.cell .input) s.hdr s.g) } :=
    h.runs (by simp only [advance, hpos, hmargin, if_true]) h.busy
  obtain ⟨t, hgroup, hdone⟩ := runs_group hheader.live rfl
  exact ⟨t, hheader.trans hgroup, hdone⟩

theorem fails_margin {s : State} (h : Live s) (hpos : s.pos = .group) (hmargin : ¬ s.marginOk = true) :
    Fails s .tailMargin s.cur :=
  h.fails (by simp only [advance, hpos, if_neg hmargin])

/-- From the margin check of a group on, the engine decodes the groups that are left of the column. -/
theorem meets_decodeGroups {s : State} {count : Nat} (h : Live s) (hpos : s.pos = .group)
    (hcount : s.g + (count + 1) = s.n / 16) :
    Meets s (GroupsDone s (count + 1))
      (decodeGroups s.config.codeOrder (s.cell .input) s.inlen.toNat s.hdr (count + 1) s.g s.cur) := by
  by_cases hmargin : s.marginOk = true
  · obtain ⟨t, hruns, hgroup⟩ := runs_headerAndGroup h hpos hmargin
    have ⟨_, _, ⟨_, ⟨_, _, _, hn, hhdr⟩, hk, hlastv, _⟩, hcur, hmore, hlast⟩ := hgroup
    rw [decodeGroups_succ _ _ _ _ _ _ ((marginOk_iff s).mp hmargin)]
    cases count with
    | zero =>
      obtain ⟨_, hpos', hi, hp⟩ := hlast (by omega)
      rw [decodeGroups_zero, ← hcur]
      refine Meets.value hruns (groupsDone_succ (length_decodeGroup ..) hgroup (by omega) ?_)
      exact groupsDone_none hpos' hi (by rw [hp, hk, hlastv])
    | succ count =>
      obtain ⟨hg, hpos'⟩ := hmore (by omega)
      obtain ⟨horder, hread, hinlen, _⟩ := hruns.sameInput.reads
      have hrest := meets_decodeGroups (count := count) hruns.live hpos' (by omega)
      rw [horder, hread, hinlen, hhdr, hg, hcur] at hrest
      refine (Meets.of_runs hruns hrest fun _ _ hP => hP).map fun q u hdone => ?_
      exact groupsDone_succ (length_decodeGroup ..) hgroup (fun _ => hg) hdone
  · rw [decodeGroups_succ_of_short _ _ _ _ _ _ (by rwa [← marginOk_iff])]
    exact fails_margin h hpos hmargin
termination_by count

/-! ### A column (R130, R131, R133) -/

/-- The column of `s` is decoded in `t`: its residuals `q.1` fill COL, and the delta pass is next with the cursor at `q.2`. -/
def ColumnDone (s : State) (q : List Byte × Nat) (t : State) : Prop :=
  q.1.length = s.n ∧ (∀ x, x < s.n → some (t.cell .col x) = q.1[x]?) ∧
  t.pos = .residual ∧ t.cur = q.2 ∧ t.hdr = s.cur ∧ t.i = 0 ∧ t.p = s.cell .lastv s.k ∧ SameOutside s t ∧
  t.voff = s.voff ∧ t.bsize = s.bsize ∧ t.bcount = s.bcount ∧ t.n = s.n ∧ t.k = s.k ∧
  SameCells .lastv s t ∧ SameCells .blk s t

theorem enterColumn_sameCells (s : State) (bank : Bank) : SameCells bank s (enterColumn s) :=
  State.cell_congr (by cases bank <;> rfl) rfl rfl

/-- From column entry the engine decodes the column as `DecodeColumn` does. -/
theorem meets_decodeColumn {s : State} (h : Live s) (hpos : s.pos = .column) :
    Meets s (ColumnDone s) (decodeColumn s.config.codeOrder (s.cell .input) s.inlen.toNat s.cur s.n) := by
  have hentry : Runs s (enterColumn s) := h.runs (by simp only [advance, hpos]) h.busy
  have hplace := h.place
  simp only [DecodePlace, hpos] at hplace
  obtain ⟨hblock, _⟩ := hplace
  obtain ⟨hn, hcount, _⟩ := hblock.groups
  obtain ⟨hmin, _⟩ := hblock.bcount_bounds
  obtain ⟨count, hgroups⟩ : ∃ count, s.n / 16 = count + 1 := Nat.exists_eq_add_one.mpr (by omega)
  have hrest := meets_decodeGroups (count := count) hentry.live rfl
    (by rw [enterColumn_g, enterColumn_n, Nat.zero_add, hgroups])
  have hsplit : decodeColumn s.config.codeOrder (s.cell .input) s.inlen.toNat s.cur s.n =
      decodeGroups s.config.codeOrder (s.cell .input) s.inlen.toNat s.cur (s.n / 16) 0
        (s.cur + headerBytes (s.n / 16)) := rfl
  rw [hsplit]
  rw [enterColumn_g, enterColumn_cur, enterColumn_hdr, enterColumn_inlen, enterColumn_config,
    (enterColumn_sameCells s .input).cell_eq, ← hgroups] at hrest
  refine Meets.of_runs hentry hrest fun q t hdone => ?_
  obtain ⟨hlen, hcol, ⟨hout, ⟨hvoff, hbsize, hbcount, hn', hhdr⟩, hk, hlastv, hblk⟩, hpos', hcur, hi, hp, _⟩ := hdone
  rw [← hn] at hlen hcol
  refine ⟨hlen, fun x hx => ?_, hpos', hcur, hhdr, hi, hp, ?_, hvoff, hbsize, hbcount, hn', hk,
    (enterColumn_sameCells s .lastv).trans hlastv, (enterColumn_sameCells s .blk).trans hblk⟩
  · rw [← hcol x hx, enterColumn_g, Nat.mul_zero, Nat.zero_add]
  · exact SameOutside.trans ⟨⟨rfl, rfl, rfl, rfl, rfl, rfl, rfl, rfl⟩, ⟨rfl, rfl, rfl⟩, enterColumn_sameCells s .input,
      enterColumn_sameCells s .output⟩ hout

/-- Settles O24: `meets_decodeColumn`, read for a value and for a cause raised. -/
theorem engineDecodesColumn : Obligations.EngineDecodesColumn := by
  intro s hinv hrun hpos
  have hmeets := meets_decodeColumn ⟨hinv, hrun⟩ hpos
  cases hcolumn : decodeColumn s.config.codeOrder (s.cell .input) s.inlen.toNat s.cur s.n with
  | value q =>
    rw [hcolumn] at hmeets
    obtain ⟨t, ⟨hreaches, _, _, hrun'⟩, hdone⟩ := hmeets
    exact ⟨t, hreaches, hrun', hdone⟩
  | raised cause a =>
    rw [hcolumn] at hmeets
    obtain ⟨t, hreaches, ⟨hoperands, hcells⟩, hengine, herr, hcause, hcur⟩ := hmeets
    exact ⟨t, hreaches, hengine, hcause, herr, hcur, hoperands, hcells⟩

end Sys2Proof.Machine


/-! The engine against `DecodeBlock` and `DecodeStream` (R145, R152 to R158, R172, R173, R176): the delta pass of a column, the
columns of a block, the commit, the blocks, the snapshot, and the whole decode. -/

namespace Sys2Proof.Machine

/-! ### The delta pass of a column (R149, R152, R154) -/

/-- Rows of `v` bytes: no byte belongs to two rows or to two columns. -/
theorem rowAddress_inj {v i i' k k' : Nat} (hk : k < v) (hk' : k' < v) (h : i * v + k = i' * v + k') : i = i' ∧ k = k' := by
  have hdiv (a b : Nat) (hb : b < v) : (a * v + b) / v = a := by
    rw [Nat.mul_comm, Nat.mul_add_div (by omega), Nat.div_eq_of_lt hb, Nat.add_zero]
  have hi : i = i' := by rw [← hdiv i k hk, h, hdiv i' k' hk']
  subst hi
  exact ⟨rfl, Nat.add_left_cancel h⟩

/-- The residuals of a column from vertex `s.i` on. -/
def State.residualsLeft (s : State) : List Byte := (List.range' s.i (s.bcount - s.i)).map (s.cell .col)

/-- The delta pass of `s` is done in `t`: the values of column `s.k` stand in BLK, and the next column or the commit is next. -/
def DeltaDone (s t : State) : Prop :=
  (∀ x, x < s.bcount - s.i →
    some (t.cell .blk ((s.i + x) * s.vsize.toNat + s.k)) = (deltaChain s.p s.residualsLeft)[x]?) ∧
  (∀ a, (∀ x, s.i ≤ x → a ≠ x * s.vsize.toNat + s.k) → t.cell .blk a = s.cell .blk a) ∧
  t.cur = s.cur ∧ SameOutside s t ∧ SameBlock s t ∧ SameCells .lastv s t ∧
  (s.k + 1 < s.vsize.toNat → t.k = s.k + 1 ∧ t.pos = .column) ∧ (¬ s.k + 1 < s.vsize.toNat → t.pos = .commit)

/-- The value of vertex `s.i` is stored; what is left of the pass is the pass from the next vertex on. -/
theorem deltaDone_cons {s t u : State} (hi : s.i + 1 < s.bcount) (hk : s.k < s.vsize.toNat)
    (hstep : StepsDelta (unzigzag (s.cell .col s.i)) s t) (hcur : t.cur = s.cur) (hout : SameOutside s t)
    (hblock : SameBlock s t) (hlastv : SameCells .lastv s t) (hcol : SameCells .col s t) (hrest : DeltaDone t u) :
    DeltaDone s u := by
  obtain ⟨hvalue, hother, hp, hmore, _⟩ := hstep
  obtain ⟨hti, htk, _⟩ := hmore hi
  obtain ⟨hvalues, hother', hcur', hout', hblock', hlastv', hnext, hlast⟩ := hrest
  have ⟨⟨_, hvsize, _⟩, _⟩ := hout
  have ⟨_, _, hbcount, _⟩ := hblock
  have hleft : s.residualsLeft = s.cell .col s.i :: t.residualsLeft := by
    obtain ⟨m, hm⟩ : ∃ m, s.bcount - s.i = m + 1 := Nat.exists_eq_add_one.mpr (by omega)
    rw [State.residualsLeft, State.residualsLeft, hbcount, hti, hcol.cell_eq, hm, List.range'_succ, List.map_cons]
    congr 3
    omega
  rw [hti, htk, hvsize, hbcount] at hvalues
  rw [hti, htk, hvsize] at hother'
  rw [htk, hvsize] at hnext hlast
  refine ⟨fun x hx => ?_, fun a ha => ?_, hcur'.trans hcur, hout.trans hout', hblock.trans hblock', hlastv.trans hlastv',
    hnext, hlast⟩
  · rw [hleft, deltaChain, ← hp]
    cases x with
    | zero =>
      rw [Nat.add_zero, List.getElem?_cons_zero, hp, ← hvalue]
      refine congrArg some (hother' _ fun y hy heq => ?_)
      obtain ⟨hrow, _⟩ := rowAddress_inj hk hk heq
      omega
    | succ x =>
      rw [List.getElem?_cons_succ, ← hvalues x (by omega)]
      congr 4
      omega
  · have hself : a ≠ s.i * s.vsize.toNat + s.k := ha s.i le_rfl
    rw [hother' a fun x hx => ha x (by omega), hother a (by omega)]

/-- The last value of a column. -/
theorem deltaDone_last {s t : State} (hi : ¬ s.i + 1 < s.bcount) (hi' : s.i < s.bcount)
    (hstep : StepsDelta (unzigzag (s.cell .col s.i)) s t) (hcur : t.cur = s.cur) (hout : SameOutside s t)
    (hblock : SameBlock s t) (hlastv : SameCells .lastv s t) : DeltaDone s t := by
  obtain ⟨hvalue, hother, _, _, hcolumn, hcommit⟩ := hstep
  have hone : s.bcount - s.i = 1 := by omega
  refine ⟨fun x hx => ?_, fun a ha => ?_, hcur, hout, hblock, hlastv, fun hk => ?_, fun hk => ?_⟩
  · obtain rfl : x = 0 := by omega
    rw [State.residualsLeft, hone, Nat.add_zero, hvalue]
    rfl
  · have hself : a ≠ s.i * s.vsize.toNat + s.k := ha s.i le_rfl
    exact hother a (by omega)
  · obtain ⟨_, hk', hpos⟩ := hcolumn hi hk
    exact ⟨hk', hpos⟩
  · obtain ⟨_, _, hpos⟩ := hcommit hi hk
    exact hpos

/-- From vertex `s.i` of a delta pass the engine finishes the pass. -/
theorem runs_delta {s : State} (h : Live s) (hpos : s.pos = .residual) : ∃ t, Runs s t ∧ DeltaDone s t := by
  have hplace := h.place
  simp only [DecodePlace, hpos] at hplace
  obtain ⟨⟨_, _, _, _, _, hk⟩, hi, _⟩ := hplace
  have hadvance : advance s = deltaStep (unzigzag (s.cell .col s.i)) s := by simp only [advance, hpos]
  have hstep := deltaStep_stepsDelta (unzigzag (s.cell .col s.i)) s
  obtain ⟨hcur, hout, hblock, _, hlastv, hcol⟩ := deltaStep_frame (unzigzag (s.cell .col s.i)) s
  obtain ⟨hengine, _⟩ := deltaStep_sameStatus (unzigzag (s.cell .col s.i)) s
  have hruns := h.runs hadvance (hengine.trans h.busy)
  by_cases hmore : s.i + 1 < s.bcount
  · have ⟨_, _, _, hnext, _⟩ := hstep
    obtain ⟨hti, _, hpos'⟩ := hnext hmore
    have ⟨_, _, hbcount, _⟩ := hblock
    obtain ⟨t, hrest, hdone⟩ := runs_delta hruns.live (hpos'.trans hpos)
    exact ⟨t, hruns.trans hrest, deltaDone_cons hmore hk hstep hcur hout hblock hlastv hcol hdone⟩
  · exact ⟨_, hruns, deltaDone_last hmore hi hstep hcur hout hblock hlastv⟩
termination_by s.bcount - s.i
decreasing_by rw [hti, hbcount]; omega

/-! ### The columns of a block (R152) -/

/-- The predictors of the columns from `s.k` on. -/
def State.predictorsLeft (s : State) : List Byte := (List.range' s.k (s.vsize.toNat - s.k)).map (s.cell .lastv)

/-- The columns from `s.k` on are decoded in `t`: their values `q.1` stand in BLK, row by row, and the commit is next. -/
def ColumnsDone (s : State) (q : List (List Byte) × Nat) (t : State) : Prop :=
  (∀ i k, i < s.bcount → s.k + k < s.vsize.toNat →
    t.cell .blk (i * s.vsize.toNat + (s.k + k)) = columnByte q.1 i k) ∧
  (∀ i k, k < s.k → t.cell .blk (i * s.vsize.toNat + k) = s.cell .blk (i * s.vsize.toNat + k)) ∧
  t.pos = .commit ∧ t.cur = q.2 ∧ SameOutside s t ∧ t.voff = s.voff ∧ t.bsize = s.bsize ∧ t.bcount = s.bcount ∧
  SameCells .lastv s t

/-- The residuals of a column that is decoded, as the delta pass of its vertices finds them. -/
theorem ColumnDone.residualsLeft {s t : State} {q : List Byte × Nat} (h : ColumnDone s q t) (hcount : s.bcount ≤ s.n) :
    t.residualsLeft = q.1.take s.bcount := by
  obtain ⟨hlen, hcol, _, _, _, hi, _, _, _, _, hbcount, _⟩ := h
  rw [State.residualsLeft, hi, hbcount, Nat.sub_zero]
  refine List.ext_getElem? fun x => ?_
  by_cases hx : x < s.bcount
  · rw [List.getElem?_map, List.getElem?_range' hx, List.getElem?_take_of_lt hx, ← hcol x (by omega)]
    simp
  · rw [List.getElem?_eq_none (by simp; omega), List.getElem?_eq_none (by simp; omega)]

theorem columnByte_cons_zero (c : List Byte) (cs : List (List Byte)) (i : Nat) : columnByte (c :: cs) i 0 = c.getD i 0#8 :=
  rfl

theorem columnByte_cons_succ (c : List Byte) (cs : List (List Byte)) (i k : Nat) :
    columnByte (c :: cs) i (k + 1) = columnByte cs i k := rfl

/-- A column and its delta pass: what stands in BLK when `t` is past column `s.k`. -/
def ColumnStored (s : State) (values : List Byte) (cur : Nat) (t : State) : Prop :=
  (∀ i, i < s.bcount → t.cell .blk (i * s.vsize.toNat + s.k) = values.getD i 0#8) ∧
  (∀ i k, k < s.vsize.toNat → k ≠ s.k → t.cell .blk (i * s.vsize.toNat + k) = s.cell .blk (i * s.vsize.toNat + k)) ∧
  t.cur = cur ∧ SameOutside s t ∧ t.voff = s.voff ∧ t.bsize = s.bsize ∧ t.bcount = s.bcount ∧ SameCells .lastv s t ∧
  (s.k + 1 < s.vsize.toNat → t.k = s.k + 1 ∧ t.pos = .column) ∧ (¬ s.k + 1 < s.vsize.toNat → t.pos = .commit)

theorem columnStored_of_deltaDone {s t u : State} {q : List Byte × Nat} (hk : s.k < s.vsize.toNat)
    (hcount : s.bcount ≤ s.n) (hcolumn : ColumnDone s q t) (hdelta : DeltaDone t u) :
    ColumnStored s (deltaChain (s.cell .lastv s.k) (q.1.take s.bcount)) q.2 u := by
  have hresiduals := hcolumn.residualsLeft hcount
  obtain ⟨_, _, _, hcur, _, hi, hp, hout, hvoff, hbsize, hbcount, _, hk', hlastv, hblk⟩ := hcolumn
  obtain ⟨hvalues, hother, hcur', hout', ⟨hvoff', hbsize', hbcount', _⟩, hlastv', hnext, hlast⟩ := hdelta
  have ⟨⟨_, hvsize, _⟩, _⟩ := hout
  rw [hresiduals, hi, hk', hvsize, hbcount, hp] at hvalues
  rw [hi, hk', hvsize] at hother
  rw [hk', hvsize] at hnext hlast
  refine ⟨fun i hi => ?_, fun i k hkv hne => ?_, hcur'.trans hcur, hout.trans hout', hvoff'.trans hvoff,
    hbsize'.trans hbsize, hbcount'.trans hbcount, hlastv.trans hlastv', hnext, hlast⟩
  · have hvalue := hvalues i (by omega)
    rw [Nat.zero_add] at hvalue
    rw [List.getD_eq_getElem?_getD, ← hvalue, Option.getD_some]
  · rw [hother _ fun x _ heq => hne (rowAddress_inj hkv hk heq).2, hblk]

/-- From column entry the engine decodes the column and runs its delta pass. -/
theorem meets_columnAndDelta {s : State} (h : Live s) (hpos : s.pos = .column) :
    Meets s (fun c t => ColumnStored s (deltaChain (s.cell .lastv s.k) (c.1.take s.bcount)) c.2 t)
      (decodeColumn s.config.codeOrder (s.cell .input) s.inlen.toNat s.cur s.n) := by
  have hplace := h.place
  simp only [DecodePlace, hpos] at hplace
  obtain ⟨hblock, _⟩ := hplace
  obtain ⟨_, hcount, _⟩ := hblock.groups
  obtain ⟨_, _, _, _, _, hk⟩ := hblock
  have hcolumn := meets_decodeColumn h hpos
  cases hdecoded : decodeColumn s.config.codeOrder (s.cell .input) s.inlen.toNat s.cur s.n with
  | raised cause a => rwa [hdecoded] at hcolumn
  | value c =>
    rw [hdecoded] at hcolumn
    obtain ⟨t, hruns, hdone⟩ := hcolumn
    have ⟨_, _, hpos', _⟩ := hdone
    obtain ⟨u, hdelta, hdelta'⟩ := runs_delta hruns.live hpos'
    exact ⟨u, hruns.trans hdelta, columnStored_of_deltaDone hk hcount hdone hdelta'⟩

/-- The last column of a block is stored. -/
theorem columnsDone_last {s t : State} {values : List Byte} {cur : Nat} (hlast : ¬ s.k + 1 < s.vsize.toNat)
    (hk : s.k < s.vsize.toNat) (h : ColumnStored s values cur t) : ColumnsDone s ([values], cur) t := by
  obtain ⟨hvalues, hother, hcur, hout, hvoff, hbsize, hbcount, hlastv, _, hcommit⟩ := h
  refine ⟨fun i k hi hkv => ?_, fun i k hks => hother i k (by omega) (by omega), hcommit hlast, hcur, hout, hvoff, hbsize,
    hbcount, hlastv⟩
  obtain rfl : k = 0 := by omega
  rw [Nat.add_zero, hvalues i hi, columnByte_cons_zero]

/-- A column is stored, and the columns after it are. -/
theorem columnsDone_cons {s t u : State} {values : List Byte} {cur : Nat} {q : List (List Byte) × Nat}
    (hmore : s.k + 1 < s.vsize.toNat) (h : ColumnStored s values cur t) (hrest : ColumnsDone t q u) :
    ColumnsDone s (values :: q.1, q.2) u := by
  obtain ⟨hvalues, hother, _, hout, hvoff, hbsize, hbcount, hlastv, hnext, _⟩ := h
  obtain ⟨hk', _⟩ := hnext hmore
  obtain ⟨hvalues', hother', hpos, hcur', hout', hvoff', hbsize', hbcount', hlastv'⟩ := hrest
  have ⟨⟨_, hvsize, _⟩, _⟩ := hout
  rw [hk', hvsize, hbcount] at hvalues'
  rw [hk', hvsize] at hother'
  refine ⟨fun i k hi hkv => ?_, fun i k hks => ?_, hpos, hcur', hout.trans hout', hvoff'.trans hvoff, hbsize'.trans hbsize,
    hbcount'.trans hbcount, hlastv.trans hlastv'⟩
  · cases k with
    | zero => rw [Nat.add_zero, hother' i s.k (by omega), hvalues i hi, columnByte_cons_zero]
    | succ k =>
      rw [columnByte_cons_succ, ← hvalues' i k hi (by omega)]
      congr 2
      omega
  · rw [hother' i k (by omega), hother i k (by omega) (by omega)]

theorem predictorsLeft_eq_cons {s : State} (hk : s.k < s.vsize.toNat) :
    s.predictorsLeft =
      s.cell .lastv s.k :: (List.range' (s.k + 1) (s.vsize.toNat - (s.k + 1))).map (s.cell .lastv) := by
  obtain ⟨m, hm⟩ : ∃ m, s.vsize.toNat - s.k = m + 1 := Nat.exists_eq_add_one.mpr (by omega)
  rw [State.predictorsLeft, hm, List.range'_succ, List.map_cons]
  congr 3
  omega

/-- From the entry of column `s.k` the engine decodes the columns that are left of the block. -/
theorem meets_decodeColumns {s : State} (h : Live s) (hpos : s.pos = .column) :
    Meets s (ColumnsDone s)
      (decodeColumns s.config.codeOrder (s.cell .input) s.inlen.toNat s.bcount s.predictorsLeft s.cur) := by
  have hplace := h.place
  simp only [DecodePlace, hpos] at hplace
  obtain ⟨⟨_, _, _, _, hn, hk⟩, _⟩ := hplace
  rw [predictorsLeft_eq_cons hk, decodeColumns_cons, ← hn]
  refine (meets_columnAndDelta h hpos).bind fun c t hruns hstored => ?_
  have ⟨_, _, hcur, _, _, _, hbcount, hlastv, hnext, _⟩ := hstored
  by_cases hmore : s.k + 1 < s.vsize.toNat
  · obtain ⟨hk', hpos'⟩ := hnext hmore
    obtain ⟨horder, hread, hinlen, hvsize, _⟩ := hruns.sameInput.reads
    have hrest := meets_decodeColumns hruns.live hpos'
    rw [State.predictorsLeft, horder, hread, hinlen, hvsize, hk', hbcount, hcur, hlastv.cell_eq] at hrest
    refine (Meets.of_runs hruns hrest fun _ _ hP => hP).map fun q u hdone => ?_
    exact columnsDone_cons hmore hstored hdone
  · have hnone : s.vsize.toNat - (s.k + 1) = 0 := by omega
    rw [hnone]
    exact Meets.value hruns (columnsDone_last hmore hk hstored)
termination_by s.vsize.toNat - s.k
decreasing_by rw [hk', hvsize]; omega

/-! ### A block (R145, R156, R157, R172) -/

/-- LASTV as a list, one predictor a column. -/
def State.lastVertex (s : State) : List Byte := (List.range s.vsize.toNat).map (s.cell .lastv)

@[simp] theorem length_lastVertex (s : State) : s.lastVertex.length = s.vsize.toNat := by
  rw [State.lastVertex, List.length_map, List.length_range]

/-- A block of `bcount` vertices is committed in `t`: its bytes `b.1` in OUT, its last vertex `b.2.1` in LASTV. -/
def BlockDone (s : State) (bcount : Nat) (b : List Byte × List Byte × Nat) (t : State) : Prop :=
  (∀ x, x < bcount * s.vsize.toNat → some (t.cell .output (s.voff * s.vsize.toNat + x)) = b.1[x]?) ∧
  SameCellsOutside .output (s.voff * s.vsize.toNat) (bcount * s.vsize.toNat) s t ∧
  b.1.length = bcount * s.vsize.toNat ∧ t.lastVertex = b.2.1 ∧ t.cur = b.2.2 ∧ t.pos = .blockLoop ∧
  t.voff = s.voff + bcount

theorem length_rowMajor (cs : List (List Byte)) (vsize bcount : Nat) : (rowMajor cs vsize bcount).length = bcount * vsize := by
  rw [rowMajor, List.length_map, List.length_range]

theorem committed_sameOutput (s : State) :
    SameCellsOutside .output (s.voff * s.vsize.toNat) (s.bcount * s.vsize.toNat) s (committed s) := by
  have houtside := sameCellsOutside_of_putRun (committed_outRun s) rfl
  rwa [State.blkRun_length] at houtside

theorem committed_output (s : State) {x : Nat} (hx : x < s.bcount * s.vsize.toNat) :
    (committed s).cell .output (s.voff * s.vsize.toNat + x) = s.cell .blk x := by
  rw [cell_of_putRun_inside (committed_outRun s) (by rwa [State.blkRun_length]), blkRun_getElem, Nat.zero_add]

theorem committed_lastVertex_cell (s : State) {x : Nat} (hx : x < s.vsize.toNat) :
    (committed s).cell .lastv x = s.cell .blk ((s.bcount - 1) * s.vsize.toNat + x) := by
  have hcell := cell_of_putRun_inside (committed_lastvRun s) (x := x) (by rwa [State.blkRun_length])
  rw [Nat.zero_add, blkRun_getElem] at hcell
  rw [hcell, Nat.mul_comm]

/-- The commit of the columns that stand in BLK. -/
theorem blockDone_committed {s t : State} {q : List (List Byte) × Nat} (hk : s.k = 0) (hmin : 1 ≤ s.bcount)
    (h : ColumnsDone s q t) :
    BlockDone s s.bcount (rowMajor q.1 s.vsize.toNat s.bcount,
      (List.range s.vsize.toNat).map (fun k => columnByte q.1 (s.bcount - 1) k), q.2) (committed t) := by
  obtain ⟨hvalues, _, _, hcur, ⟨⟨_, hvsize, _⟩, _, _, houtput⟩, hvoff, _, hbcount, _⟩ := h
  have hout := committed_sameOutput t
  rw [hvoff, hvsize, hbcount] at hout
  refine ⟨fun x hx => ?_, fun x hx => by rw [hout x hx, houtput], length_rowMajor _ _ _, ?_, hcur, rfl,
    by rw [committed_voff, hvoff, hbcount]⟩
  · have hpos : 0 < s.vsize.toNat := Nat.pos_of_lt_mul_left hx
    have hcell := committed_output t (x := x) (by rwa [hbcount, hvsize])
    have hvalue := hvalues (x / s.vsize.toNat) (x % s.vsize.toNat) (Nat.div_lt_of_lt_mul (by rwa [Nat.mul_comm]))
      (by rw [hk, Nat.zero_add]; exact Nat.mod_lt _ hpos)
    rw [hk, Nat.zero_add, Nat.div_add_mod'] at hvalue
    rw [hvoff, hvsize] at hcell
    rw [hcell, hvalue, rowMajor, List.getElem?_map, List.getElem?_range hx]
    rfl
  · rw [State.lastVertex, committed_vsize, hvsize]
    refine List.map_congr_left fun x hx => ?_
    have hx := List.mem_range.mp hx
    have hvalue := hvalues (s.bcount - 1) x (by omega) (by omega)
    rw [hk, Nat.zero_add] at hvalue
    rw [committed_lastVertex_cell t (by rwa [hvsize]), hbcount, hvsize, hvalue]

/-- From the head of the block loop, with vertices left, the engine decodes and commits the next block. -/
theorem meets_decodeBlock {s : State} (h : Live s) (hpos : s.pos = .blockLoop) (hmore : s.voff < s.vcount.toNat) :
    Meets s (BlockDone s s.nextBlockCount)
      (decodeBlock s.config.codeOrder (s.cell .input) s.inlen.toNat s.nextBlockCount s.lastVertex s.cur) := by
  have hplace := h.place
  simp only [DecodePlace, hpos] at hplace
  obtain ⟨hchecked, hbsize, _, _⟩ := hplace
  obtain ⟨hmin, hmax⟩ := nextBlockCount_bounds hchecked hbsize hmore
  rw [decodeBlock_eq _ _ _ hmin hmax, length_lastVertex]
  have hentry : Runs s { s with bcount := s.nextBlockCount, n := roundUp s.nextBlockCount 16, k := 0, pos := .column } := by
    refine h.runs ?_ h.busy
    rcases enterBlock_cases s with ⟨hend, _⟩ | ⟨_, hout, _⟩ | ⟨_, _, e⟩
    · exact absurd hmore hend
    · omega
    · simp only [advance, hpos, e]
  have hcolumns := meets_decodeColumns hentry.live rfl
  rw [State.predictorsLeft, Nat.sub_zero, ← List.range_eq_range'] at hcolumns
  change Meets _ _ (decodeColumns s.config.codeOrder (s.cell .input) s.inlen.toNat s.nextBlockCount s.lastVertex s.cur)
    at hcolumns
  cases hdecoded : decodeColumns s.config.codeOrder (s.cell .input) s.inlen.toNat s.nextBlockCount s.lastVertex s.cur with
  | raised cause a =>
    rw [hdecoded] at hcolumns
    exact Fails.of_runs hentry hcolumns
  | value q =>
    rw [hdecoded] at hcolumns
    obtain ⟨t, hruns, hdone⟩ := hcolumns
    have ⟨_, _, hpos', _⟩ := hdone
    have hcommit : Runs t (committed t) := hruns.live.runs (by simp only [advance, hpos']) hruns.live.busy
    exact ⟨_, (hentry.trans hruns).trans hcommit, blockDone_committed rfl hmin hdone⟩

/-! ### The blocks (R172) -/

/-- The vertices from `s.voff` on are decoded in `t`: their bytes `q.1` in OUT, and the block loop is at its end. -/
def BlocksDone (s : State) (q : List Byte × Nat) (t : State) : Prop :=
  (∀ x, x < (s.vcount.toNat - s.voff) * s.vsize.toNat →
    some (t.cell .output (s.voff * s.vsize.toNat + x)) = q.1[x]?) ∧
  (∀ a, (a < s.voff * s.vsize.toNat ∨ s.vcount.toNat * s.vsize.toNat ≤ a) → t.cell .output a = s.cell .output a) ∧
  t.cur = q.2 ∧ t.pos = .blockLoop ∧ ¬ t.voff < t.vcount.toNat

theorem blocksDone_none {s : State} (hpos : s.pos = .blockLoop) (hend : ¬ s.voff < s.vcount.toNat) :
    BlocksDone s ([], s.cur) s := by
  have hnone : s.vcount.toNat - s.voff = 0 := by omega
  exact ⟨fun x hx => by rw [hnone] at hx; omega, fun _ _ => rfl, rfl, hpos, hend⟩

/-- A block, and the blocks after it. -/
theorem blocksDone_cons {s t u : State} {bcount : Nat} {b : List Byte × List Byte × Nat} {q : List Byte × Nat}
    (hsame : SameInput s t) (hfits : s.voff + bcount ≤ s.vcount.toNat) (h : BlockDone s bcount b t)
    (hrest : BlocksDone t q u) : BlocksDone s (b.1 ++ q.1, q.2) u := by
  obtain ⟨hbytes, hother, hlen, _, _, _, hvoff⟩ := h
  obtain ⟨hbytes', hother', hcur, hpos, hend⟩ := hrest
  obtain ⟨_, _, _, hvsize, hvcount⟩ := hsame.reads
  rw [hvcount, hvsize, hvoff, Nat.add_mul] at hbytes' hother'
  have hblockEnd : s.voff * s.vsize.toNat + bcount * s.vsize.toNat ≤ s.vcount.toNat * s.vsize.toNat := by
    rw [← Nat.add_mul]; exact Nat.mul_le_mul_right _ hfits
  refine ⟨fun x hx => ?_, fun a ha => ?_, hcur, hpos, hend⟩
  · by_cases hblock : x < bcount * s.vsize.toNat
    · rw [hother' _ (by omega), hbytes x hblock, List.getElem?_append_left (by omega)]
    · obtain ⟨y, rfl⟩ := Nat.exists_eq_add_of_le (Nat.le_of_not_lt hblock)
      have hsplit : s.vcount.toNat - s.voff = bcount + (s.vcount.toNat - (s.voff + bcount)) := by omega
      rw [hsplit, Nat.add_mul] at hx
      rw [List.getElem?_append_right (by omega), hlen, Nat.add_sub_cancel_left, ← hbytes' y (by omega), Nat.add_assoc]
  · rw [hother' a (by omega), hother a (by omega)]

/-- From the head of the block loop the engine decodes the vertices that are left. -/
theorem meets_decodeBlocks {s : State} {fuel : Nat} (h : Live s) (hpos : s.pos = .blockLoop)
    (hfuel : s.vcount.toNat - s.voff ≤ fuel) :
    Meets s (BlocksDone s)
      (decodeBlocks s.config.codeOrder (s.cell .input) s.inlen.toNat s.bsize fuel (s.vcount.toNat - s.voff) s.lastVertex
        s.cur) := by
  induction fuel generalizing s with
  | zero => exact Meets.value (Runs.refl h) (blocksDone_none hpos (by omega))
  | succ fuel ih =>
    by_cases hmore : s.voff < s.vcount.toNat
    · have hplace := h.place
      simp only [DecodePlace, hpos] at hplace
      obtain ⟨hchecked, hbsize, _, _⟩ := hplace
      obtain ⟨hmin, _⟩ := nextBlockCount_bounds hchecked hbsize hmore
      have hcount : min s.bsize (s.vcount.toNat - s.voff) = s.nextBlockCount := rfl
      have hfits : s.nextBlockCount ≤ s.vcount.toNat - s.voff := Nat.min_le_right _ _
      rw [decodeBlocks_succ _ _ _ _ _ (by omega), hcount]
      refine (meets_decodeBlock h hpos hmore).bind fun b t hruns hdone => ?_
      have ⟨_, _, _, hlastv, hcur, hpos', hvoff⟩ := hdone
      obtain ⟨horder, hread, hinlen, hvsize, hvcount⟩ := hruns.sameInput.reads
      have hplace' := hruns.live.place
      simp only [DecodePlace, hpos'] at hplace'
      obtain ⟨_, hbsize', _, _⟩ := hplace'
      have hleft : t.vcount.toNat - t.voff = s.vcount.toNat - s.voff - s.nextBlockCount := by rw [hvcount, hvoff]; omega
      have hrest := ih hruns.live hpos' (by omega)
      rw [hleft, horder, hread, hinlen, hbsize', hvsize, ← hbsize, hlastv, hcur] at hrest
      refine (Meets.of_runs hruns hrest fun _ _ hP => hP).map fun q u hdone' => ?_
      exact blocksDone_cons hruns.sameInput (by omega) hdone hdone'
    · have hnone : s.vcount.toNat - s.voff = 0 := by omega
      rw [hnone, decodeBlocks_of_none_left]
      exact Meets.value (Runs.refl h) (blocksDone_none hpos hmore)

/-! ### The snapshot (R168) -/

/-- The trailing snapshot, as the reference decoder reads it. -/
def State.snapshotBytes (s : State) : List Byte :=
  (List.range s.vsize.toNat).map fun k => s.cell .input (s.inlen.toNat - s.vsize.toNat + k)

/-- The snapshot from byte `s.k` on is in LASTV, and the block loop begins at vertex 0. -/
def SnapshotDone (s t : State) : Prop :=
  (∀ x, s.k ≤ x → x < s.vsize.toNat → t.cell .lastv x = s.cell .input (s.inlen.toNat - s.vsize.toNat + x)) ∧
  (∀ x, x < s.k → t.cell .lastv x = s.cell .lastv x) ∧ t.cur = s.cur ∧ t.pos = .blockLoop ∧ t.voff = 0 ∧
  SameCells .output s t

/-- Where a snapshot byte leads. -/
theorem snapshotByte_next (v : Byte) (s : State) :
    (snapshotByte v s).cur = s.cur ∧
    (s.k + 1 < s.vsize.toNat → (snapshotByte v s).k = s.k + 1 ∧ (snapshotByte v s).pos = s.pos) ∧
    (¬ s.k + 1 < s.vsize.toNat → (snapshotByte v s).voff = 0 ∧ (snapshotByte v s).pos = .blockLoop) := by
  rcases snapshotByte_cases v s with ⟨hmore, e⟩ | ⟨hlast, e⟩ <;> rw [e]
  · exact ⟨rfl, fun _ => ⟨rfl, rfl⟩, fun h => absurd hmore h⟩
  · exact ⟨rfl, fun h => absurd h hlast, fun _ => ⟨rfl, rfl⟩⟩

theorem runs_snapshot {s : State} (h : Live s) (hpos : s.pos = .snapshot) : ∃ t, Runs s t ∧ SnapshotDone s t := by
  have hplace := h.place
  simp only [DecodePlace, hpos] at hplace
  obtain ⟨_, _, hk⟩ := hplace
  have hstored := snapshotByte_stores (s.cell .input (s.inlen.toNat - s.vsize.toNat + s.k)) s
  have hframe := snapshotByte_sameOutside (s.cell .input (s.inlen.toNat - s.vsize.toNat + s.k)) s
  have hnextPlace := snapshotByte_next (s.cell .input (s.inlen.toNat - s.vsize.toNat + s.k)) s
  have hadvance : advance s = snapshotByte (s.cell .input (s.inlen.toNat - s.vsize.toNat + s.k)) s := by
    simp only [advance, hpos]
  rw [← hadvance] at hstored hframe hnextPlace
  obtain ⟨hself, hother⟩ := hstored
  obtain ⟨hcur, hmore, hlast⟩ := hnextPlace
  obtain ⟨_, ⟨hengine, _⟩, _, hout⟩ := hframe
  have hruns : Runs s (advance s) := h.runs rfl (hengine.trans h.busy)
  by_cases hnext : s.k + 1 < s.vsize.toNat
  · obtain ⟨hk', hpos'⟩ := hmore hnext
    obtain ⟨_, hread, hinlen, hvsize, _⟩ := hruns.sameInput.reads
    obtain ⟨u, hrest, hbytes, hbefore, hcur', hpos'', hvoff, hout'⟩ := runs_snapshot hruns.live (hpos'.trans hpos)
    rw [hk', hvsize, hinlen, hread] at hbytes
    rw [hk'] at hbefore
    refine ⟨u, hruns.trans hrest, fun x hx hxv => ?_, fun x hx => ?_, hcur'.trans hcur, hpos'', hvoff, hout.trans hout'⟩
    · by_cases hfirst : x = s.k
      · rw [hbefore x (by omega), hfirst, hself]
      · exact hbytes x (by omega) hxv
    · rw [hbefore x (by omega), hother x (by omega)]
  · obtain ⟨hvoff, hpos'⟩ := hlast hnext
    refine ⟨_, hruns, fun x hx hxv => ?_, fun x hx => hother x (by omega), hcur, hpos', hvoff, hout⟩
    obtain rfl : x = s.k := by omega
    exact hself
termination_by s.vsize.toNat - s.k
decreasing_by rw [hk', hvsize]; omega

end Sys2Proof.Machine


/-! A whole decode of the engine against `DecodeStream` (R165 to R173, R177): the checks, the tag, the snapshot, the blocks, and
the completion. -/

namespace Sys2Proof.Machine

/-- Every vertex is decoded in `t`: their bytes `q.1` in OUT, and the block loop is at its end. -/
def StreamDone (s : State) (q : List Byte × Nat) (t : State) : Prop :=
  (∀ x, x < s.vcount.toNat * s.vsize.toNat → some (t.cell .output x) = q.1[x]?) ∧
  (∀ x, s.vcount.toNat * s.vsize.toNat ≤ x → t.cell .output x = s.cell .output x) ∧
  t.cur = q.2 ∧ t.pos = .blockLoop ∧ ¬ t.voff < t.vcount.toNat

/-- From the first snapshot byte on the engine decodes the whole stream. -/
theorem meets_snapshotAndBlocks {s : State} (h : Live s) (hpos : s.pos = .snapshot) (hk : s.k = 0) :
    Meets s (StreamDone s)
      (decodeBlocks s.config.codeOrder (s.cell .input) s.inlen.toNat (blockSize s.vsize.toNat) s.vcount.toNat s.vcount.toNat
        s.snapshotBytes 1) := by
  have hplace := h.place
  simp only [DecodePlace, hpos] at hplace
  obtain ⟨_, hcur, _⟩ := hplace
  obtain ⟨t, hruns, hbytes, _, hcur', hpos', hvoff, hout⟩ := runs_snapshot h hpos
  obtain ⟨horder, hread, hinlen, hvsize, hvcount⟩ := hruns.sameInput.reads
  have hplace' := hruns.live.place
  simp only [DecodePlace, hpos'] at hplace'
  obtain ⟨_, hbsize, _, _⟩ := hplace'
  have hlastv : t.lastVertex = s.snapshotBytes := by
    rw [State.lastVertex, State.snapshotBytes, hvsize]
    exact List.map_congr_left fun x hx => hbytes x (by omega) (List.mem_range.mp hx)
  have hblocks := meets_decodeBlocks (fuel := t.vcount.toNat) hruns.live hpos' (Nat.sub_le _ _)
  rw [hvoff, Nat.sub_zero, horder, hread, hinlen, hbsize, hvsize, hvcount, hlastv, hcur', hcur] at hblocks
  refine Meets.of_runs hruns hblocks fun q u hdone => ?_
  obtain ⟨hdone, hother, hrest⟩ := hdone
  rw [hvoff, hvcount, hvsize, Nat.zero_mul, Nat.sub_zero] at hdone
  rw [hvoff, hvcount, hvsize, Nat.zero_mul] at hother
  refine ⟨fun x hx => ?_, fun x hx => (hother x (.inr hx)).trans (hout x), hrest⟩
  rw [← hdone x hx, Nat.zero_add]

/-- From the tag on the engine decodes the stream, or takes the exception of a wrong tag. -/
theorem meets_tagged {s : State} (h : Live s) (hpos : s.pos = .tag) :
    Meets s (StreamDone s)
      (if s.cell .input 0 ≠ 0xA0#8 then .raised .badTag 0
      else decodeBlocks s.config.codeOrder (s.cell .input) s.inlen.toNat (blockSize s.vsize.toNat) s.vcount.toNat
        s.vcount.toNat s.snapshotBytes 1) := by
  by_cases htag : s.cell .input 0 = 0xA0#8
  · rw [if_neg (not_not_intro htag)]
    have hsnap : Runs s { s with cur := 1, k := 0, pos := .snapshot } :=
      h.runs (by simp only [advance, hpos, htag, if_true]) h.busy
    exact Meets.of_runs hsnap (meets_snapshotAndBlocks hsnap.live rfl rfl) fun _ _ hdone => hdone
  · rw [if_pos htag]
    have hplace := h.place
    simp only [DecodePlace, hpos] at hplace
    obtain ⟨_, hcur⟩ := hplace
    have hfails := h.fails (c := .badTag) (by simp only [advance, hpos, htag, if_false])
    rwa [hcur] at hfails

/-- From the operand checks on the engine decodes the stream as `DecodeStream` does. -/
theorem meets_decodeStream {s : State} (h : Live s) (hpos : s.pos = .operands) :
    Meets s (StreamDone s)
      (decodeStream s.config.codeOrder s.vcount.toNat s.vsize.toNat s.inlen.toNat (s.cell .input)) := by
  have hcur := h.place
  simp only [DecodePlace, hpos] at hcur
  have hadvance : advance s = checkOperands s := by simp only [advance, hpos]
  have hfails {c : Cause} (e : checkOperands s = takeException c s) : Fails s c 0 := by
    have hraised := h.fails (hadvance.trans e)
    rwa [hcur] at hraised
  rcases checkOperands_cases s with ⟨hrange, e⟩ | ⟨⟨hmin, hmax⟩, halign, e⟩ | ⟨⟨hmin, hmax⟩, halign, hshort, e⟩ |
    ⟨⟨hmin, hmax, halign, hlong⟩, e⟩
  · rw [decodeStream_of_vsize_outside _ _ (by omega)]
    exact hfails e
  · rw [decodeStream_of_vsize_inside _ _ hmin hmax, if_pos halign]
    exact hfails e
  · rw [decodeStream_of_vsize_inside _ _ hmin hmax, if_neg (not_not_intro halign), if_pos hshort]
    exact hfails e
  · rw [decodeStream_of_vsize_inside _ _ (by omega) hmax, if_neg (not_not_intro halign), if_neg (by omega)]
    have hchecked : Runs s { s with cur := 0, pos := .tag } := h.runs (hadvance.trans e) h.busy
    exact Meets.of_runs hchecked (meets_tagged hchecked.live rfl) fun _ _ hdone => hdone

/-- The decode of `s` has ended in `t` as the reference decoder's `q` says. -/
def Completed (s : State) (q : List Byte × Nat) (t : State) : Prop :=
  t.engine = .done ∧ t.err = .none ∧ t.cause = .none ∧ t.cur = q.2 ∧
  (∀ x, x < s.vcount.toNat * s.vsize.toNat → some (t.cell .output x) = q.1[x]?) ∧
  (∀ x, s.vcount.toNat * s.vsize.toNat ≤ x → t.cell .output x = s.cell .output x)

theorem completeDecode_sameInput (s : State) : SameInput s (completeDecode s) :=
  sameInput_of_eqs ⟨rfl, rfl, rfl, rfl, rfl, rfl, rfl, rfl⟩ rfl rfl

theorem completes_of_value {s : State} {q : List Byte × Nat} (h : Live s) (hpos : s.pos = .operands)
    (hvalue : decodeStream s.config.codeOrder s.vcount.toNat s.vsize.toNat s.inlen.toNat (s.cell .input) = .value q) :
    ∃ t, Reaches s t ∧ SameInput s t ∧ Completed s q t := by
  have hmeets := meets_decodeStream h hpos
  rw [hvalue] at hmeets
  obtain ⟨t, hruns, hbytes, hother, hcur, hpos', hend⟩ := hmeets
  have hlast : advance t = completeDecode t := by
    rcases enterBlock_cases t with ⟨_, e⟩ | ⟨hmore, _⟩ | ⟨hmore, _⟩
    · simp only [advance, hpos', e]
    · exact absurd hmore hend
    · exact absurd hmore hend
  exact ⟨_, hruns.reaches.trans (hruns.live.reaches hlast), hruns.sameInput.trans (completeDecode_sameInput t), rfl, rfl, rfl,
    hcur, hbytes, hother⟩

theorem fails_of_raised {s : State} {c : Cause} {a : Nat} (h : Live s) (hpos : s.pos = .operands)
    (hraised : decodeStream s.config.codeOrder s.vcount.toNat s.vsize.toNat s.inlen.toNat (s.cell .input) = .raised c a) :
    Fails s c a := by
  have hmeets := meets_decodeStream h hpos
  rwa [hraised] at hmeets

/-- Settles O39: the parts of the decode in turn, and the turn that completes it. -/
theorem engineRunsDecodeStream : Obligations.EngineRunsDecodeStream := by
  intro s hinv hrun hpos
  cases hdecoded : decodeStream s.config.codeOrder s.vcount.toNat s.vsize.toNat s.inlen.toNat (s.cell .input) with
  | value q =>
    obtain ⟨t, hreaches, ⟨hoperands, hcells⟩, hdone⟩ := completes_of_value ⟨hinv, hrun⟩ hpos hdecoded
    exact ⟨t, hreaches, hoperands, hcells, hdone⟩
  | raised cause a =>
    obtain ⟨t, hreaches, ⟨hoperands, hcells⟩, herror⟩ := fails_of_raised ⟨hinv, hrun⟩ hpos hdecoded
    exact ⟨t, hreaches, hoperands, hcells, herror⟩

end Sys2Proof.Machine


/-! What the outcome of a decode depends on (R38, R177, R224): the reference decoder reads no byte at or above INLEN, so two
engines that agree below it end alike. -/

namespace Sys2Proof.Machine

/-! ### The reference decoder reads below INLEN only -/

section Below

variable {rd rd' : Nat → Byte} {inlen : Nat} (same : ∀ x, x < inlen → rd' x = rd x) (order : CodeOrder)
include same

/-- The groups of a column: header bytes lie below the cursor, and a checked group below INLEN. -/
theorem decodeGroups_congr {hdr count g cur : Nat} (hheaders : hdr + headerBytes (g + count) ≤ cur) :
    decodeGroups order rd' inlen hdr count g cur = decodeGroups order rd inlen hdr count g cur := by
  induction count generalizing g cur with
  | zero => rfl
  | succ count ih =>
    by_cases hmargin : cur + 32 ≤ inlen
    · have hheader : g / 4 < headerBytes (g + (count + 1)) := div_four_lt_headerBytes (by omega)
      have hsel : selectorAt rd' hdr g = selectorAt rd hdr g := by rw [selectorAt, selectorAt, same _ (by omega)]
      have hgroup := decodeGroup_congr (rd := rd) (rd' := rd') (a := cur) (fun x _ hx => same x (by omega)) order
        (selectorAt rd hdr g)
      obtain ⟨hend, _⟩ := decodeGroup_end_bounds order rd cur (selectorAt rd hdr g)
      rw [decodeGroups_succ _ _ _ _ _ _ hmargin, decodeGroups_succ _ _ _ _ _ _ hmargin, hsel, hgroup,
        ih (by rw [Nat.add_right_comm, Nat.add_assoc]; omega)]
    · rw [decodeGroups_succ_of_short _ _ _ _ _ _ hmargin, decodeGroups_succ_of_short _ _ _ _ _ _ hmargin]

theorem decodeColumn_congr (a n : Nat) : decodeColumn order rd' inlen a n = decodeColumn order rd inlen a n :=
  decodeGroups_congr same order (by rw [Nat.zero_add])

theorem decodeColumns_congr (bcount : Nat) (ps : List Byte) (cur : Nat) :
    decodeColumns order rd' inlen bcount ps cur = decodeColumns order rd inlen bcount ps cur := by
  induction ps generalizing cur with
  | nil => rfl
  | cons p ps ih => simp only [decodeColumns_cons, decodeColumn_congr same, ih]

theorem decodeBlock_congr (bcount : Nat) (lastv : List Byte) (cur : Nat) :
    decodeBlock order rd' inlen bcount lastv cur = decodeBlock order rd inlen bcount lastv cur := by
  rw [decodeBlock, decodeBlock, decodeColumns_congr same]

theorem decodeBlocks_congr (bsize fuel remaining : Nat) (lastv : List Byte) (cur : Nat) :
    decodeBlocks order rd' inlen bsize fuel remaining lastv cur = decodeBlocks order rd inlen bsize fuel remaining lastv cur := by
  induction fuel generalizing remaining lastv cur with
  | zero => rfl
  | succ fuel ih =>
    by_cases hleft : remaining = 0
    · rw [hleft, decodeBlocks_of_none_left, decodeBlocks_of_none_left]
    · simp only [decodeBlocks_succ _ _ _ _ _ hleft, decodeBlock_congr same, ih]

/-- The checks put the tag and the snapshot below INLEN (R166, R168). -/
theorem decodeStream_congr (vcount vsize : Nat) :
    decodeStream order vcount vsize inlen rd' = decodeStream order vcount vsize inlen rd := by
  by_cases hrange : vsize = 0 ∨ 257 ≤ vsize
  · rw [decodeStream_of_vsize_outside _ _ hrange, decodeStream_of_vsize_outside _ _ hrange]
  · rw [decodeStream_of_vsize_inside _ _ (by omega) (by omega), decodeStream_of_vsize_inside _ _ (by omega) (by omega)]
    by_cases hshort : inlen < 1 + vsize
    · rw [if_pos hshort, if_pos hshort]
    · have hsnapshot : ((List.range vsize).map fun k => rd' (inlen - vsize + k)) =
          (List.range vsize).map fun k => rd (inlen - vsize + k) :=
        List.map_congr_left fun k hk => same _ (by have := List.mem_range.mp hk; omega)
      rw [same 0 (by omega), hsnapshot, decodeBlocks_congr same]

end Below

/-! ### Two engines -/

/-- Settles O41: both engines end as `DecodeStream` of their inputs does, and that is one value. -/
theorem outcomeDependsOnOperandsAndInput : Obligations.OutcomeDependsOnOperandsAndInput := by
  intro s₁ s₂ hinv₁ hinv₂ hrun₁ hrun₂ hpos₁ hpos₂ hvcount hvsize hinlen horder hsame
  have hdecode : decodeStream s₁.config.codeOrder s₁.vcount.toNat s₁.vsize.toNat s₁.inlen.toNat (s₁.cell .input) =
      decodeStream s₂.config.codeOrder s₂.vcount.toNat s₂.vsize.toNat s₂.inlen.toNat (s₂.cell .input) := by
    rw [← hvcount, ← hvsize, ← hinlen, ← horder]
    exact decodeStream_congr hsame _ _ _
  cases hresult : decodeStream s₁.config.codeOrder s₁.vcount.toNat s₁.vsize.toNat s₁.inlen.toNat (s₁.cell .input) with
  | value q =>
    obtain ⟨t₁, hreaches₁, _, hengine₁, herr₁, hcause₁, hcur₁, hbytes₁, _⟩ :=
      completes_of_value ⟨hinv₁, hrun₁⟩ hpos₁ hresult
    obtain ⟨t₂, hreaches₂, _, hengine₂, herr₂, hcause₂, hcur₂, hbytes₂, _⟩ :=
      completes_of_value ⟨hinv₂, hrun₂⟩ hpos₂ (hdecode.symm.trans hresult)
    refine ⟨t₁, t₂, hreaches₁, hreaches₂, by rw [hengine₁]; decide, hengine₁.trans hengine₂.symm, herr₁.trans herr₂.symm,
      hcause₁.trans hcause₂.symm, hcur₁.trans hcur₂.symm, fun _ x hx => ?_⟩
    have hbyte₂ := hbytes₂ x (by rwa [← hvcount, ← hvsize])
    exact Option.some.inj ((hbytes₁ x hx).trans hbyte₂.symm)
  | raised cause a =>
    obtain ⟨t₁, hreaches₁, _, hengine₁, herr₁, hcause₁, hcur₁⟩ := fails_of_raised ⟨hinv₁, hrun₁⟩ hpos₁ hresult
    obtain ⟨t₂, hreaches₂, _, hengine₂, herr₂, hcause₂, hcur₂⟩ :=
      fails_of_raised ⟨hinv₂, hrun₂⟩ hpos₂ (hdecode.symm.trans hresult)
    refine ⟨t₁, t₂, hreaches₁, hreaches₂, by rw [hengine₁]; decide, hengine₁.trans hengine₂.symm, herr₁.trans herr₂.symm,
      hcause₁.trans hcause₂.symm, hcur₁.trans hcur₂.symm, fun hdone => ?_⟩
    cases hengine₁.symm.trans hdone

end Sys2Proof.Machine
